-- ==== Sys2Proof/Word.lean ====
section
/-! DEFINITION. The units of this hardware: bytes, 16-bit words, and character strings (00_scope R18). -/

namespace Sys2Proof

/-- A byte: an unsigned integer 0 to 255 (R18). -/
abbrev Byte := BitVec 8

/-- A 16-bit field: length, checksum, register address, read length, model number (R11). -/
abbrev Word := BitVec 16

/-- A character string, as the list of its characters. -/
abbrev Text := List Char

end Sys2Proof
end

