-- ==== Sys2Proof/Config.lean ====
section
/-! DEFINITION. What is fixed for the hardware: the constants of the wire format (00_scope R11, R12) and the numeric
domain NUM (R15). CRC_TABLE, also a constant, stands in Machine/CrcTable.lean. -/

namespace Sys2Proof

/-- NUM, the numeric domain of the scale/offset pipeline, a parameter (R15): the exact rationals, or some finite-precision
domain, of which `Config.finiteRound` is the rounding. -/
inductive NumDomain where
  | exact
  | finite (k : Nat)
  deriving DecidableEq, Repr

end Sys2Proof

namespace Sys2Proof.Config

/-- The frame marker `FF FF FD 00`: a byte string, with no byte order (R11, R54). -/
def frameMarker : List Byte := [0xFF, 0xFF, 0xFD, 0x00]

/-- MAX_PARAMS: the longest parameter sequence the 2-byte length field can count (R12). -/
def maxParams : Nat := 65532

/-- Instruction code of a ping (R88). -/
def codePing : Byte := 0x01

/-- Instruction code of a read (R88). -/
def codeRead : Byte := 0x02

/-- Instruction code of a write (R88). -/
def codeWrite : Byte := 0x03

/-- The status code of device replies (R88). -/
def codeStatus : Byte := 0x55

/-- The length of a packet's header: marker, address and length field (R19, R134). -/
def headerLength : Nat := 7

/-- The rounding of the `k`-th finite-precision NUM. The spec gives no number format, width or rounding (R15, U19), so it is
a free value: no body, nothing is known of it (log 10). -/
opaque finiteRound : Nat → Rat → Rat

end Sys2Proof.Config
end

