-- ==== Sys2Proof/Machine/Bytes.lean ====
section
/-! DEFINITION. Byte sequences (00_scope R18): byte order, slices, and the numbers they stand for. -/

namespace Sys2Proof.Machine

/-- `le16(v)`: the low byte first (R18, R54). -/
def le16 (v : Word) : List Byte := [v.extractLsb' 0 8, v.extractLsb' 8 8]

/-- `lo + 256 * hi` of two received bytes, as a 16-bit field (R79, R80, R84). -/
def word16 (lo hi : Byte) : Word := hi ++ lo

/-- `from_le(B)`: the unsigned little-endian number of a byte sequence of any length (R18, R85). -/
def fromLe : List Byte → Nat
  | [] => 0
  | b :: bs => b.toNat + 256 * fromLe bs

/-- The little-endian bytes of a number, up to its last non-zero byte; `fuel` bounds how many. -/
def minLeUpTo : Nat → Nat → List Byte
  | 0, _ => []
  | fuel + 1, n => if n = 0 then [] else BitVec.ofNat 8 n :: minLeUpTo fuel (n / 256)

/-- `min_le(n)`: the minimal little-endian byte representation, empty for 0 (R18, R185). -/
def minLe (n : Nat) : List Byte := minLeUpTo n n

/-- `bit_length(n)` (R18). -/
def bitLength (n : Nat) : Nat := if n = 0 then 0 else n.log2 + 1

/-- `B[:-2]`: all but the last two bytes. -/
def dropLast2 (b : List Byte) : List Byte := b.take (b.length - 2)

/-- `B[-2] + 256 * B[-1]`: the last two bytes as a little-endian field (R80). -/
def trailer (b : List Byte) : Word :=
  word16 (b.getD (b.length - 2) 0) (b.getD (b.length - 1) 0)

end Sys2Proof.Machine
end

