-- ==== Sys2Proof/Machine/Packet.lean ====
section
/-! DEFINITION. The packet layout (30_encoding R76, R78) and the fields of a received packet (41_packet_codec R121). -/

namespace Sys2Proof.Machine

/-- A packet laid out from the values of its fields, whatever they are (R76). -/
def layPacket (address : Byte) (len : Word) (code : Byte) (parameters : List Byte) (crc : Word) : List Byte :=
  Config.frameMarker ++ [address] ++ le16 len ++ [code] ++ parameters ++ le16 crc

/-- The bytes a packet's checksum covers: marker through parameters (R76, R115). -/
def packetBody (address code : Byte) (parameters : List Byte) : List Byte :=
  Config.frameMarker ++ [address] ++ le16 (BitVec.ofNat 16 (parameters.length + 3)) ++ [code] ++ parameters

/-- BUILD_PACKET's result (R115). -/
def buildPacketBytes (address code : Byte) (parameters : List Byte) : List Byte :=
  packetBody address code parameters ++ le16 (crc16 (packetBody address code parameters))

/-- The parameters of a READ packet (R82). -/
def readParams (regAddr num : Word) : List Byte := le16 regAddr ++ le16 num

/-- The parameters of a WRITE packet (R83). -/
def writeParams (regAddr : Word) (data : List Byte) : List Byte := le16 regAddr ++ data

/-- The length field of a header (R79). -/
def headerLen (hdr : List Byte) : Word := word16 (hdr.getD 5 0) (hdr.getD 6 0)

/-- `RESP[8:-2]`: error byte and data, without the checksum (R121, R140). -/
def payloadOf (resp : List Byte) : List Byte := (dropLast2 resp).drop 8

/-- The fields of a received packet (R121). A field that the length leaves undefined is `none`. -/
structure PacketFields where
  marker      : List Byte
  id          : Byte
  length      : Word
  covered     : List Byte
  checksum    : Word
  instruction : Option Byte
  errByte     : Option Byte
  payload     : Option (List Byte)
  data        : Option (List Byte)
  deriving DecidableEq, Repr

/-- Field extraction from `RESP = HDR ++ BODY` with length field `len` (R121). -/
def fieldsOf (resp : List Byte) (len : Word) : PacketFields :=
  { marker := resp.take 4
    id := resp.getD 4 0
    length := len
    covered := dropLast2 resp
    checksum := trailer resp
    instruction := if 1 ≤ len.toNat then some (resp.getD 7 0) else none
    errByte := if 2 ≤ len.toNat then some (resp.getD 8 0) else none
    payload := if 4 ≤ len.toNat then some (payloadOf resp) else none
    data := if 4 ≤ len.toNat then some ((payloadOf resp).drop 1) else none }

end Sys2Proof.Machine
end

