-- ==== Sys2Proof/Syntax.lean ====
section
/-! DEFINITION. The instructions: one constructor for each row of spec/opcode_table.json, with the operand types of
30_encoding R96 and 10_state R31, and the names of what a command that does not decode is refused for. -/

namespace Sys2Proof

/-- The five literal tags (R90). -/
def literalTags : List Text :=
  [['i', 'n', 't'], ['f', 'l', 'o', 'a', 't'], ['h', 'e', 'x'], ['b', 'o', 'o', 'l'], ['b', 'y', 't', 'e', 's']]

/-- A tag that is none of the five literal ones: "any other tag" (R31). A literal tag cannot be expressed as one (R96). -/
abbrev OtherTag := { t : Text // t ∉ literalTags }

/-- The type tag of a display specification: five literal tags, and any other tag (R31, R90). -/
inductive TypeTag where
  | int | float | hex | bool | bytes
  | unknown (tag : OtherTag)
  deriving DecidableEq, Repr

/-- A display specification that is present (R31). An absent one is `none` of `Option DisplaySpec`. -/
structure DisplaySpec where
  tag    : TypeTag
  offset : Option Rat := none
  scale  : Option Rat := none
  min    : Option Rat := none
  max    : Option Rat := none
  deriving DecidableEq, Repr

/-- A value of the register data model, by kind (R96, R165). -/
inductive Value where
  | bytes (b : List Byte)
  | int   (n : Int)
  | rat   (q : Rat)
  | text  (t : Text)
  | truth (b : Bool)
  deriving DecidableEq, Repr

/-- The `register` operand of GET and SET: a descriptor of the facade's map by its index or by its name (R96). -/
inductive RegSel where
  | index (k : Nat)
  | name  (n : Text)
  deriving DecidableEq, Repr

/-- The twelve host operations, as the latch OP names them (R29, R95). -/
inductive HostOp where
  | crc16 | buildPacket | transact | ping | read | write | sendBlind | decode | encode | get | set | devPing
  deriving DecidableEq, Repr

/-- The instructions: four packet rows (R102) and twelve host operations (R95). A packet carries every field of its
encoding that is not a constant of its row, the checksum and a variable length field too, so that no bit of it is
dropped; `WellFormed` says which values agree with the rules. `facade` says which facade instance GET, SET and DEV_PING
are called on ("on a facade", R95). CRC16's optional seed, to which the spec gives no width, is taken as 16 bits, as the
result is; it has no effect (DESIGN CHOICE, safe, log 26). -/
inductive Instr where
  | pktPing     (id : Byte) (crc : Word)
  | pktRead     (id : Byte) (regAddr num crc : Word)
  | pktWrite    (id : Byte) (len regAddr : Word) (data : List Byte) (crc : Word)
  | pktStatus   (id : Byte) (len : Word) (errByte : Byte) (data : List Byte) (crc : Word)
  | crc16       (bytes : List Byte) (seed : Option Word)
  | buildPacket (address instruction : Byte) (parameters : List Byte)
  | transact    (address instruction : Byte) (parameters : List Byte)
  | ping        (address : Byte)
  | read        (address : Byte) (regAddr length : Word)
  | write       (address : Byte) (regAddr : Word) (data : List Byte)
  | sendBlind   (address instruction : Byte) (parameters : List Byte)
  | decode      (raw : List Byte) (spec : Option DisplaySpec)
  | encode      (value : Value) (spec : Option DisplaySpec)
  | get         (facade : Nat) (reg : RegSel)
  | set         (facade : Nat) (reg : RegSel) (value : Value)
  | devPing     (facade : Nat)
  deriving DecidableEq, Repr

/-- Why the bytes of a command are no instruction. Each is a refusal by name (safe). -/
inductive DecodeError where
  /-- The command ends before its last operand. -/
  | truncated
  /-- A selector 0xC to 0xF, which R95 leaves unassigned (93 U40). -/
  | unassignedSelector
  /-- A first byte that is neither a selector nor the first byte of the frame marker. -/
  | noSuchSelector
  /-- The first four bytes are not `FF FF FD 00`. -/
  | badMarker
  /-- A packet that matches no row of the opcode table (R88, R89, R102). -/
  | noSuchPacket
  /-- A mark of the byte-sequence coding that is neither 0 nor 1 (log 1). -/
  | badListMark
  /-- A mark of an optional operand or of a truth value that is neither 0 nor 1 (log 1). -/
  | badMark
  /-- A number with a high zero byte, or minus zero, or a fraction not in lowest terms (log 1). -/
  | nonCanonicalNumber
  /-- Bytes that are no characters (log 1). -/
  | badText
  /-- A tag of a value, a register selector or a type that names none (log 1), or a literal type tag spelt out as an
  unknown one, which is outside the operand's domain (R31, R96). -/
  | badTag
  /-- A non-zero byte after the last operand (log 1). -/
  | trailingBytes
  deriving DecidableEq, Repr

end Sys2Proof
end

