-- ==== Sys2Proof/WellFormed.lean ====
section
/-! DEFINITION. Which instructions the spec's encodings and operand domains admit (30_encoding R76, R78, R96;
41_packet_codec R119; 43 R191). -/

namespace Sys2Proof

/-- The tags whose values are converted through numbers (R165, R180). -/
def TypeTag.numeric : TypeTag → Bool
  | .int | .float | .hex | .bool => true
  | .bytes | .unknown _ => false

/-- `min` is not above `max` where both are present (R42 d, R191). -/
def DisplaySpec.boundsOk (d : DisplaySpec) : Bool :=
  match d.min, d.max with
  | some lo, some hi => decide (lo ≤ hi)
  | _, _ => true

/-- `scale`, where present, is not zero (R42 e, R191). -/
def DisplaySpec.scaleOk (d : DisplaySpec) : Bool := d.scale != some 0

/-- A display specification that ENCODE accepts (R191). -/
def DisplaySpec.wf (d : DisplaySpec) : Bool := d.boundsOk && d.scaleOk

/-- The value kinds of each type tag (R96, R186). -/
def Value.fits : Value → Option DisplaySpec → Bool
  | .bytes _, none => true
  | .bytes _, some d => !d.tag.numeric
  | .int _, some d => d.tag == .int || d.tag == .float
  | .rat _, some d => d.tag == .int || d.tag == .float
  | .text _, some d => d.tag == .hex
  | .truth _, some d => d.tag == .bool
  | _, none => false

/-- The checks on an instruction's operands. A packet's length field and checksum are those of its contents (R76, R78);
parameters fit the length field (R119); a display specification and a value are in their domains (R31, R96, R191). -/
def Instr.wf : Instr → Bool
  | .pktPing id crc => crc == Machine.crc16 (Machine.packetBody id Config.codePing [])
  | .pktRead id reg num crc =>
      crc == Machine.crc16 (Machine.packetBody id Config.codeRead (Machine.readParams reg num))
  | .pktWrite id len reg data crc =>
      decide (len.toNat = data.length + 5) &&
        crc == Machine.crc16 (Machine.packetBody id Config.codeWrite (Machine.writeParams reg data))
  | .pktStatus id len e data crc =>
      decide (len.toNat = data.length + 4) &&
        crc == Machine.crc16 (Machine.packetBody id Config.codeStatus (e :: data))
  | .crc16 _ _ => true
  | .buildPacket _ _ p => decide (p.length ≤ Config.maxParams)
  | .transact _ _ p => decide (p.length ≤ Config.maxParams)
  | .ping _ => true
  | .read _ _ _ => true
  | .write _ _ d => decide (d.length + 2 ≤ Config.maxParams)
  | .sendBlind _ _ p => decide (p.length ≤ Config.maxParams)
  | .decode _ _ => true
  | .encode v spec => spec.all (·.wf) && v.fits spec
  | .get _ _ => true
  | .set _ _ _ => true
  | .devPing _ => true

/-- The instruction is one the spec's encodings and operand domains admit. -/
abbrev WellFormed (i : Instr) : Prop := i.wf = true

end Sys2Proof
end

