-- ==== Sys2Proof/Decode.lean ====
section
/-! DEFINITION. From bytes to an instruction, total, refusing by name, and the encoder back. Packets follow 30_encoding
R76, R78, R88, R102; host operations follow the selectors of R95, and for their operands, which the spec gives no bits,
a byte coding of the model's own (DESIGN CHOICE, log 1).

The coding of operands: a byte is itself; a 16-bit operand is two bytes, low byte first (R54); a byte sequence is a `01`
before each byte and a `00` after the last; a number is the byte sequence of its minimal little-endian bytes; an
integer is a sign mark and its magnitude; a rational is its numerator and its denominator less one; an optional operand
is `00`, or `01` and the operand; a character is three bytes of its code, low byte first, and a string is the byte
sequence of its characters' bytes. Operand bytes of zeros are the smallest operands: no bytes, zero, absent. -/

namespace Sys2Proof

/-- A reader takes a value off the front of a byte list. -/
abbrev Reader (α : Type) := List Byte → Except DecodeError (α × List Byte)

def readByte : Reader Byte
  | [] => .error .truncated
  | b :: r => .ok (b, r)

def readWord : Reader Word
  | lo :: hi :: r => .ok (Machine.word16 lo hi, r)
  | _ => .error .truncated

/-- The next `n` bytes as they are. -/
def readExactly (n : Nat) : Reader (List Byte) := fun bs =>
  if bs.length < n then .error .truncated else .ok (bs.take n, bs.drop n)

def readBytes : Reader (List Byte)
  | [] => .error .truncated
  | [m] => if m = 0 then .ok ([], []) else .error .truncated
  | m :: b :: r =>
    if m = 0 then .ok ([], b :: r)
    else if m = 1 then
      match readBytes r with
      | .ok (bs, r') => .ok (b :: bs, r')
      | .error e => .error e
    else .error .badListMark

def readNat : Reader Nat := fun bs =>
  match readBytes bs with
  | .error e => .error e
  | .ok (ds, r) =>
    if Machine.minLe (Machine.fromLe ds) = ds then .ok (Machine.fromLe ds, r) else .error .nonCanonicalNumber

/-- A mark: 0 or 1, as a truth value. -/
def readMark : Reader Bool
  | [] => .error .truncated
  | m :: r => if m = 0 then .ok (false, r) else if m = 1 then .ok (true, r) else .error .badMark

def readInt : Reader Int := fun bs => do
  let (negative, r) ← readMark bs
  let (n, r) ← readNat r
  if negative then
    if n = 0 then .error .nonCanonicalNumber else .ok (-(n : Int), r)
  else .ok ((n : Int), r)

def readRat : Reader Rat := fun bs => do
  let (num, r) ← readInt bs
  let (d, r) ← readNat r
  let q := mkRat num (d + 1)
  if q.num = num ∧ q.den = d + 1 then .ok (q, r) else .error .nonCanonicalNumber

/-- The characters of a string's bytes, three bytes each. -/
def textOfBytes : List Byte → Except DecodeError Text
  | [] => .ok []
  | a :: b :: c :: r =>
    let code := Machine.fromLe [a, b, c]
    if code.isValidChar then
      match textOfBytes r with
      | .ok t => .ok (Char.ofNat code :: t)
      | .error e => .error e
    else .error .badText
  | _ => .error .badText

def readText : Reader Text := fun bs => do
  let (ds, r) ← readBytes bs
  let t ← textOfBytes ds
  .ok (t, r)

def readOption {α : Type} (rd : Reader α) : Reader (Option α) := fun bs => do
  let (present, r) ← readMark bs
  if present then
    let (a, r) ← rd r
    .ok (some a, r)
  else .ok (none, r)

def readTag : Reader TypeTag := fun bs => do
  let (t, r) ← readByte bs
  if t = 0 then .ok (.bytes, r)
  else if t = 1 then .ok (.int, r)
  else if t = 2 then .ok (.float, r)
  else if t = 3 then .ok (.hex, r)
  else if t = 4 then .ok (.bool, r)
  else if t = 5 then
    let (name, r) ← readText r
    if other : name ∉ literalTags then .ok (.unknown ⟨name, other⟩, r) else .error .badTag
  else .error .badTag

def readSpec : Reader DisplaySpec := fun bs => do
  let (tag, r) ← readTag bs
  let (offset, r) ← readOption readRat r
  let (scale, r) ← readOption readRat r
  let (min, r) ← readOption readRat r
  let (max, r) ← readOption readRat r
  .ok ({ tag := tag, offset := offset, scale := scale, min := min, max := max }, r)

def readValue : Reader Value := fun bs => do
  let (t, r) ← readByte bs
  if t = 0 then
    let (b, r) ← readBytes r
    .ok (.bytes b, r)
  else if t = 1 then
    let (n, r) ← readInt r
    .ok (.int n, r)
  else if t = 2 then
    let (q, r) ← readRat r
    .ok (.rat q, r)
  else if t = 3 then
    let (x, r) ← readText r
    .ok (.text x, r)
  else if t = 4 then
    let (b, r) ← readMark r
    .ok (.truth b, r)
  else .error .badTag

def readSel : Reader RegSel := fun bs => do
  let (t, r) ← readByte bs
  if t = 0 then
    let (k, r) ← readNat r
    .ok (.index k, r)
  else if t = 1 then
    let (n, r) ← readText r
    .ok (.name n, r)
  else .error .badTag

/-- Address, instruction code, parameters: the operands of BUILD_PACKET, TRANSACT and SEND_BLIND. -/
def readRequest : Reader (Byte × Byte × List Byte) := fun bs => do
  let (a, r) ← readByte bs
  let (i, r) ← readByte r
  let (p, r) ← readBytes r
  .ok ((a, i, p), r)

/-- A host operation from its selector and the bytes after it (R95). Selectors 0xC to 0xF are unassigned. -/
def decodeHostOp (selector : Byte) (bs : List Byte) : Except DecodeError (Instr × List Byte) :=
  match selector.toNat with
  | 0x0 => do
    let (b, r) ← readBytes bs
    let (seed, r) ← readOption readWord r
    .ok (.crc16 b seed, r)
  | 0x1 => do
    let (q, r) ← readRequest bs
    .ok (.buildPacket q.1 q.2.1 q.2.2, r)
  | 0x2 => do
    let (q, r) ← readRequest bs
    .ok (.transact q.1 q.2.1 q.2.2, r)
  | 0x3 => do
    let (a, r) ← readByte bs
    .ok (.ping a, r)
  | 0x4 => do
    let (a, r) ← readByte bs
    let (reg, r) ← readWord r
    let (n, r) ← readWord r
    .ok (.read a reg n, r)
  | 0x5 => do
    let (a, r) ← readByte bs
    let (reg, r) ← readWord r
    let (d, r) ← readBytes r
    .ok (.write a reg d, r)
  | 0x6 => do
    let (q, r) ← readRequest bs
    .ok (.sendBlind q.1 q.2.1 q.2.2, r)
  | 0x7 => do
    let (b, r) ← readBytes bs
    let (spec, r) ← readOption readSpec r
    .ok (.decode b spec, r)
  | 0x8 => do
    let (v, r) ← readValue bs
    let (spec, r) ← readOption readSpec r
    .ok (.encode v spec, r)
  | 0x9 => do
    let (f, r) ← readNat bs
    let (sel, r) ← readSel r
    .ok (.get f sel, r)
  | 0xA => do
    let (f, r) ← readNat bs
    let (sel, r) ← readSel r
    let (v, r) ← readValue r
    .ok (.set f sel v, r)
  | 0xB => do
    let (f, r) ← readNat bs
    .ok (.devPing f, r)
  | n => .error (if n < 0x10 then .unassignedSelector else .noSuchSelector)

/-- A packet: its row is found from its first eight bytes, as the table's match and mask say (R102), and its operands are
the bytes after them. The number of data bytes is what the length field leaves for them (R79, R83, R78). The table's mask
admits every length field for PKT_WRITE and PKT_STATUS, where R78, R83 and R88 give only those from 5 and from 4: below
that the operands the row prints are taken all the same, with no data bytes (DESIGN CHOICE, unsafe, log 27). -/
def decodePacket : List Byte → Except DecodeError (Instr × List Byte)
  | m0 :: m1 :: m2 :: m3 :: id :: lenL :: lenH :: code :: bs =>
    let len := Machine.word16 lenL lenH
    if [m0, m1, m2, m3] ≠ Config.frameMarker then .error .badMarker
    else if code = Config.codePing ∧ len = 3 then do
      let (crc, r) ← readWord bs
      .ok (.pktPing id crc, r)
    else if code = Config.codeRead ∧ len = 7 then do
      let (reg, r) ← readWord bs
      let (num, r) ← readWord r
      let (crc, r) ← readWord r
      .ok (.pktRead id reg num crc, r)
    else if code = Config.codeWrite then do
      let (reg, r) ← readWord bs
      let (data, r) ← readExactly (len.toNat - 5) r
      let (crc, r) ← readWord r
      .ok (.pktWrite id len reg data crc, r)
    else if code = Config.codeStatus then do
      let (e, r) ← readByte bs
      let (data, r) ← readExactly (len.toNat - 4) r
      let (crc, r) ← readWord r
      .ok (.pktStatus id len e data crc, r)
    else .error .noSuchPacket
  | _ => .error .truncated

/-- The instruction at the front of a byte list, and the bytes after it. A packet begins with the first byte of the
frame marker, a host operation with its selector in one byte. -/
def decode : List Byte → Except DecodeError (Instr × List Byte)
  | [] => .error .truncated
  | b :: r => if b = 0xFF then decodePacket (b :: r) else decodeHostOp b r

/-- The one instruction of a command: nothing but zero bytes may stand after it (log 1). -/
def decodeCommand (bs : List Byte) : Except DecodeError Instr :=
  match decode bs with
  | .error e => .error e
  | .ok (i, r) => if r.all (· == 0) then .ok i else .error .trailingBytes

/-! ### The encoder -/

def putBytes : List Byte → List Byte
  | [] => [0]
  | b :: bs => 1 :: b :: putBytes bs

def putNat (n : Nat) : List Byte := putBytes (Machine.minLe n)

def putMark (b : Bool) : List Byte := [if b then 1 else 0]

def putInt (n : Int) : List Byte := putMark (decide (n < 0)) ++ putNat n.natAbs

def putRat (q : Rat) : List Byte := putInt q.num ++ putNat (q.den - 1)

/-- The three bytes of a character's code, low byte first. -/
def putChar (c : Char) : List Byte :=
  [BitVec.ofNat 8 c.toNat, BitVec.ofNat 8 (c.toNat / 256), BitVec.ofNat 8 (c.toNat / 65536)]

def putText (t : Text) : List Byte := putBytes (t.flatMap putChar)

def putOption {α : Type} (put : α → List Byte) : Option α → List Byte
  | none => [0]
  | some a => 1 :: put a

def putTag : TypeTag → List Byte
  | .bytes => [0]
  | .int => [1]
  | .float => [2]
  | .hex => [3]
  | .bool => [4]
  | .unknown t => 5 :: putText t.val

def putSpec (d : DisplaySpec) : List Byte :=
  putTag d.tag ++ putOption putRat d.offset ++ putOption putRat d.scale ++ putOption putRat d.min ++
    putOption putRat d.max

def putValue : Value → List Byte
  | .bytes b => 0 :: putBytes b
  | .int n => 1 :: putInt n
  | .rat q => 2 :: putRat q
  | .text t => 3 :: putText t
  | .truth b => 4 :: putMark b

def putSel : RegSel → List Byte
  | .index k => 0 :: putNat k
  | .name n => 1 :: putText n

/-- The selector of a host operation (R95). -/
def HostOp.selector : HostOp → BitVec 4
  | .crc16 => 0x0 | .buildPacket => 0x1 | .transact => 0x2 | .ping => 0x3 | .read => 0x4 | .write => 0x5
  | .sendBlind => 0x6 | .decode => 0x7 | .encode => 0x8 | .get => 0x9 | .set => 0xA | .devPing => 0xB

/-- A host operation's first byte: its selector. -/
def putOp (op : HostOp) : Byte := op.selector.setWidth 8

/-- The bytes of an instruction: a packet's own layout (R76, R78), or the selector and the operands of a host operation
(R95, log 1). -/
def encode : Instr → List Byte
  | .pktPing id crc => Machine.layPacket id 3 Config.codePing [] crc
  | .pktRead id reg num crc => Machine.layPacket id 7 Config.codeRead (Machine.readParams reg num) crc
  | .pktWrite id len reg data crc => Machine.layPacket id len Config.codeWrite (Machine.writeParams reg data) crc
  | .pktStatus id len e data crc => Machine.layPacket id len Config.codeStatus (e :: data) crc
  | .crc16 b seed => putOp .crc16 :: (putBytes b ++ putOption Machine.le16 seed)
  | .buildPacket a i p => putOp .buildPacket :: a :: i :: putBytes p
  | .transact a i p => putOp .transact :: a :: i :: putBytes p
  | .ping a => [putOp .ping, a]
  | .read a reg n => putOp .read :: a :: (Machine.le16 reg ++ Machine.le16 n)
  | .write a reg d => putOp .write :: a :: (Machine.le16 reg ++ putBytes d)
  | .sendBlind a i p => putOp .sendBlind :: a :: i :: putBytes p
  | .decode b spec => putOp .decode :: (putBytes b ++ putOption putSpec spec)
  | .encode v spec => putOp .encode :: (putValue v ++ putOption putSpec spec)
  | .get f sel => putOp .get :: (putNat f ++ putSel sel)
  | .set f sel v => putOp .set :: (putNat f ++ putSel sel ++ putValue v)
  | .devPing f => putOp .devPing :: putNat f

/-! ### The opcode table's own numbering -/

/-- The bytes of a number of `n` bytes, byte 0 from the least significant bits. -/
def bytesOfNat : Nat → Nat → List Byte
  | 0, _ => []
  | n + 1, w => BitVec.ofNat 8 w :: bytesOfNat n (w / 256)

/-- The bytes of a table word. Byte 0 holds bits 7 to 0. A packet row of the table is printed with offset 0 leftmost
(R102), so that its digits read as one number have offset 0 in the top byte: a word whose TOP four bytes are the frame
marker is that reading, and its bytes are taken in that order. No word is a packet both ways (log 22). -/
def tableBytes (nbits w : Nat) : List Byte :=
  let bs := bytesOfNat ((nbits + 7) / 8) w
  if bs.take 4 ≠ Config.frameMarker ∧ bs.reverse.take 4 = Config.frameMarker then bs.reverse else bs

/-- The command of a table word: its bytes, and after them zeros, as many as its operands need: a packet as long as its
length field says, a host operation its smallest operands. -/
def tableCommand (nbits w : Nat) : List Byte :=
  let bs := tableBytes nbits w
  bs ++ List.replicate (16 + if bs.take 4 = Config.frameMarker then (Machine.headerLen bs).toNat else 0) 0

/-- The instruction the decoder reads from a word of the opcode table. -/
def decodeTableWord (nbits w : Nat) : Option Instr :=
  match decodeCommand (tableCommand nbits w) with
  | .ok i => some i
  | .error _ => none

end Sys2Proof
end

