-- ==== Sys2Proof/Machine/State.lean ====
section
/-! DEFINITION. The state of the block, its collaborators and its ports, as plain data; why a step can stop; the state
after reset (10_state; 60_exceptions; 70_reset_and_hazards). -/

namespace Sys2Proof.Machine

/-! ### Registers' value types -/

/-- PHASE's twelve values (R27). -/
inductive Phase where
  | idle | s1 | s2 | s3 | s4 | s5 | s6 | s7 | s8 | s9 | s10 | failed
  deriving DecidableEq, Repr

/-- The seven transaction errors, in the document's order (R215). -/
inductive TxError where
  | transmissionMismatch | shortHeader | headerMismatch | incompletePacket | badChecksum | notAStatusPacket
  | servoReportedError
  deriving DecidableEq, Repr

/-- What ERR holds: OK or one of the seven errors (R28, R216). -/
inductive ErrReg where
  | ok
  | failed (e : TxError)
  deriving DecidableEq, Repr

/-- What TRANSACT returns: `ok(payload)` or `err(E, info)` (R130). -/
inductive TxResult where
  | ok  (payload : List Byte)
  | err (e : TxError) (info : Option Byte)
  deriving DecidableEq, Repr

/-- The result port: what the last host operation returned (R36 b, R95). `none` of an `Option` is `absent`. -/
inductive OpResult where
  /-- No result: none delivered yet, or SEND_BLIND's. -/
  | none
  | word       (v : Word)
  | bytes      (b : List Byte)
  | transacted (r : TxResult)
  | model      (m : Option Word)
  | payload    (p : Option (List Byte))
  | value      (v : Value)
  | gotValue   (v : Option Value)
  | flag       (b : Bool)
  | fields     (f : PacketFields)
  deriving DecidableEq, Repr

/-! ### Descriptors, bus and facades -/

/-- Access rights of a register: readable, writable, or both (R30). -/
inductive Access where
  | read | write | readWrite
  deriving DecidableEq, Repr

/-- A register descriptor (R30). `address` and `size` are integers that R42 bounds. -/
structure RegDescriptor where
  name    : Text
  address : Nat
  size    : Nat
  access  : Access
  display : Option DisplaySpec
  deriving DecidableEq, Repr

/-- A device model descriptor (R33); its register map is an ordered list of register descriptors (R32). -/
structure DeviceModel where
  number      : Nat
  displayName : Text
  registerMap : List RegDescriptor
  deriving DecidableEq, Repr

/-- A hook subscriber, known by a number of its own (R205). -/
abbrev Hook := Nat

/-- A device facade instance (R34): BUSREF, FID, MODEL, HOOKS. -/
structure Facade where
  busRef : Nat
  fid    : Byte
  model  : Option DeviceModel
  hooks  : List Hook
  deriving DecidableEq, Repr

/-- The bus object (R35): its identity, TRANSPORT, and whether that transport is open (R253). -/
structure Bus where
  ident     : Nat
  transport : Nat
  isOpen    : Bool
  deriving DecidableEq, Repr

/-! ### The environment, the ports and the outputs -/

/-- What the line and the transport do at one transport event (R38, R143, R144): the bytes devices appended to RXQ since
the event before it; for a `write`, what the receiver hears of it (`none`: exactly what was sent); for a `read`, at most
how many bytes its timeout lets it answer (`none`: as many as are there). -/
structure LineStep where
  arrives : List Byte := []
  heard   : Option (List Byte) := none
  limit   : Option Nat := none
  deriving DecidableEq, Repr

/-- A transport event of the block (R64 b): a flush, a write of these bytes, a read of `asked` that got these bytes. -/
inductive TransportEvent where
  | flush
  | write (b : List Byte)
  | read  (asked : Nat) (got : List Byte)
  deriving DecidableEq, Repr

/-- The output event HWERR(h, facade): the subscriber and the facade instance, by its place, FID and model number (R206,
R207). -/
structure HwErr where
  hook   : Hook
  facade : Nat
  fid    : Byte
  model  : Option Nat
  deriving DecidableEq, Repr

/-- The diagnostic output DIAG (R228). -/
inductive Diag where
  | transactionError (e : TxError) (info : Option Byte)
  | getFailed
  | setFailed
  deriving DecidableEq, Repr

/-- A request waiting at the host's side (R60, R205, R208, R248, R252, R253). `command` is an instruction as bytes. -/
inductive Request where
  | command        (bytes : List Byte)
  | registerHook   (facade : Nat) (hook : Hook)
  | createFacade   (fid : Byte) (modelNumber : Option Nat)
  | closeTransport
  | reset
  deriving DecidableEq, Repr

/-! ### The state -/

/-- All the spec gives the machine; INVENTORY.md lists every field with its rule and its reset value. The block has no
memory (R50, log 23); its outputs are lists that it only appends to (log 19). -/
structure State where
  /-- ACC, the CRC accumulator (R21). -/
  acc       : Word
  /-- TXBUF, the transmit buffer (R22). -/
  txbuf     : List Byte
  /-- ECHO, the echo buffer (R23). -/
  echo      : List Byte
  /-- HDR, the header buffer (R24). -/
  hdr       : List Byte
  /-- LEN, the decoded body length (R25). -/
  len       : Word
  /-- BODY, the body buffer (R26). -/
  body      : List Byte
  /-- PHASE, the transaction phase (R27). -/
  phase     : Phase
  /-- ERR, the outcome of the last transaction (R28). -/
  err       : ErrReg
  /-- ERRBYTE, the raw error byte (R28). -/
  errByte   : Byte
  /-- OP, which host operation (R29). -/
  op        : HostOp
  /-- ID, the device address operand (R29). -/
  id        : Byte
  /-- INSTR, the instruction code operand (R29). -/
  instr     : Byte
  /-- PARAMS, the parameter operand (R29). -/
  params    : List Byte
  /-- REGADDR, the register address operand (R29). -/
  regAddr   : Word
  /-- RLEN, the read length operand (R29). -/
  rlen      : Word
  /-- DATA, the bytes to write (R29). -/
  data      : List Byte
  /-- RAW, the bytes entering DECODE (R29). -/
  raw       : List Byte
  /-- COMB, the little-endian combination of RAW (R29). -/
  comb      : Nat
  /-- VAL, the running value of the pipeline (R29). -/
  val       : Rat
  /-- SPEC, the display specification in use (R29). -/
  spec      : Option DisplaySpec
  /-- The bus object (R35). -/
  bus       : Bus
  /-- RXQ, the transport's pending-input queue (R38). -/
  rxq       : List Byte
  /-- The facade instances on the bus (R34, R35). -/
  facades   : List Facade
  /-- DEVDB, the device-descriptor lookup, as the list of what it holds (R16, R33). -/
  devdb     : List DeviceModel
  /-- NAME_SEP, the separator of normalised names (R17). -/
  nameSep   : Text
  /-- NUM, the numeric domain (R15). -/
  num       : NumDomain
  /-- The model's own: requests waiting at the port, next first (R60, R66). -/
  port      : List Request
  /-- The model's own: an HWERR notification is in progress (R207). -/
  notifying : Bool
  /-- The result port (R36 b). -/
  result    : OpResult
  /-- The model's own: what the environment does at the transport events to come (R38, R143, R144). -/
  line      : List LineStep
  /-- The model's own record: the transport events so far, in order, each with the PHASE it took place in (R64, R146). -/
  events    : List (Phase × TransportEvent)
  /-- The HWERR events so far, in order (R206). -/
  hwerr     : List HwErr
  /-- The DIAG stream so far, in order (R228). -/
  diag      : List Diag
  deriving DecidableEq, Repr

/-! ### Why a step can stop -/

/-- The machine is stuck. A reset or a cancellation in the middle of a transaction has no step either (R248, U14): a
request that is made then is held (Machine/Step.lean), so nothing is raised for it. -/
inductive Fault where
  /-- An operation on a bus whose transport has closed has no step (R253, D30, U15). Raised by the operations that start
  with a transport event (log 17). safe. -/
  | transportClosed
  deriving DecidableEq, Repr

/-- The operation has no meaning for its operands: "the block performs no transport event and gives no result" (R18,
R231). The reasons are the list of 93_implementation_defined part 2, and four of the model's own. -/
inductive Refusal where
  /-- An instruction that has no meaning in the model yet. Raised by no arm. safe. -/
  | notModelled (mnemonic : String)
  /-- A command that decodes to no instruction; an unassigned selector among them (U40). Raised by `step`. safe. -/
  | badCommand (e : DecodeError)
  /-- More than 65532 parameter bytes (R119, U11). BUILD_PACKET and all that call it. safe. -/
  | paramsTooLong
  /-- `hex` of a negative or fractional number (R177, U22). DECODE, GET. safe. -/
  | hexOfNonNatural
  /-- A fractional operand with type `int` (R181, U24). ENCODE, SET. safe. -/
  | intOperandNotIntegral
  /-- A string that is no base-16 numeral (R182, U23). ENCODE, SET. safe. -/
  | badHexString
  /-- A scale of zero in ENCODE (R191, U26). ENCODE, SET. safe. -/
  | zeroScale
  /-- `min` above `max` in ENCODE (R191, U27). ENCODE, SET. safe. -/
  | minAboveMax
  /-- A negative raw value (R187, U28). ENCODE, SET. safe. -/
  | negativeRaw
  /-- An encoded value wider than the register (R202, U31). SET. safe. -/
  | valueTooWide
  /-- GET of a register that is not readable (R204 a, U32). safe. -/
  | noGetter
  /-- SET of a register that is not writable (R204 a, U32). safe. -/
  | noSetter
  /-- An unknown register, or a facade without a model (R204 b, U32). GET, SET. safe. -/
  | unselectableRegister
  /-- A map that fails R42 (R204 c, U33). GET, SET, creation of a facade. safe. -/
  | illFormedMap
  /-- A request made while a hook is being notified (R207, U35). Raised by `step`. safe. -/
  | reentrantRequest
  /-- An operand of another kind than its type tag admits, which R96 calls inexpressible (log 13). ENCODE, SET. safe. -/
  | operandOutOfDomain
  /-- The model's own: no facade instance stands at this place (log 15). GET, SET, DEV_PING, REGISTER_HOOK. safe. -/
  | noSuchFacade
  /-- The model's own: the facade is bound to a bus that this block is not (log 15). GET, SET, DEV_PING. safe. -/
  | facadeOnOtherBus
  deriving DecidableEq, Repr

/-! ### Reset -/

/-- The state after reset: PHASE = IDLE, ERR = OK, ERRBYTE = 0, HOOKS empty, buffers empty (R40, R245). Registers that
R40 leaves unspecified hold zero or nothing (DESIGN CHOICE, unsafe, log 5); RXQ is empty (DESIGN CHOICE, unsafe, log 6);
the objects given at creation are one open bus and one facade without a model (DESIGN CHOICE, unsafe, log 7); DEVDB is
empty and NAME_SEP is the suggested `_` (DESIGN CHOICE, unsafe, log 8); NUM is the exact rationals, as the rules are written
(R15, D12, log 10). -/
def State.reset : State :=
  { acc := 0, txbuf := [], echo := [], hdr := [], len := 0, body := []
    phase := .idle, err := .ok, errByte := 0
    op := .crc16, id := 0, instr := 0, params := [], regAddr := 0, rlen := 0, data := []
    raw := [], comb := 0, val := 0, spec := none
    bus := { ident := 0, transport := 0, isOpen := true }
    rxq := []
    facades := [{ busRef := 0, fid := 0, model := none, hooks := [] }]
    devdb := [], nameSep := ['_'], num := .exact
    port := [], notifying := false, result := .none
    line := [], events := [], hwerr := [], diag := [] }

end Sys2Proof.Machine
end

