-- ==== Sys2Proof/Machine/Flags.lean ====
section
/-! DEFINITION. The status indications. The block has no condition codes and no arithmetic flags (10_state R36); what it
has is ERR and ERRBYTE, the error codes, and the two tests of an error byte. -/

namespace Sys2Proof.Machine

/-- The numeric code of an error, 1 to 7 (R216). -/
def TxError.code : TxError → Nat
  | .transmissionMismatch => 1
  | .shortHeader => 2
  | .headerMismatch => 3
  | .incompletePacket => 4
  | .badChecksum => 5
  | .notAStatusPacket => 6
  | .servoReportedError => 7

/-- The numeric code of ERR, 0 for OK (R216). -/
def ErrReg.code : ErrReg → Nat
  | .ok => 0
  | .failed e => e.code

/-- Step 9's test of an error byte: some bit of 6 to 0 is set; bit 7 is ignored (R86, R139). -/
def errorBitsSet (e : Byte) : Bool := e &&& 0x7F != 0

/-- The facade's test of an error byte: any of its 8 bits (R206). -/
def hardwareErrorSet (e : Byte) : Bool := e != 0

/-- What an error records: the raw error byte for ServoReportedError, nothing for the others (R216). -/
def TxError.info (e : TxError) (errByte : Byte) : Option Byte :=
  match e with
  | .servoReportedError => some errByte
  | _ => none

/-- Access includes read (R30). -/
def Access.canRead : Access → Bool
  | .read | .readWrite => true
  | .write => false

/-- Access includes write (R30). -/
def Access.canWrite : Access → Bool
  | .write | .readWrite => true
  | .read => false

end Sys2Proof.Machine
end

