-- ==== Sys2Proof/Machine/Ops.lean ====
section
/-! DEFINITION. The shared operations: outcomes, the operand latches, the CRC engine and BUILD_PACKET over the state, the
three transport operations, raising a transaction error and returning from it, and the HWERR fan-out. -/

namespace Sys2Proof.Machine

/-! ### Outcomes -/

/-- Why an operation stops. -/
inductive Stop where
  | fault   (f : Fault)
  | refusal (r : Refusal)
  deriving DecidableEq, Repr

/-- An operation that may stop. -/
abbrev Attempt (α : Type) := Except Stop α

/-- `refuse(reason)` (R18). -/
def refuse {α : Type} (r : Refusal) : Attempt α := .error (.refusal r)

/-- The operation has no step. -/
def stuck {α : Type} (f : Fault) : Attempt α := .error (.fault f)

/-- The outcome of an instruction. -/
def Attempt.outcome (a : Attempt State) : Host.Outcome State Fault Refusal :=
  match a with
  | .ok s => .next s
  | .error (.fault f) => .fault f
  | .error (.refusal r) => .refused r

/-! ### Latches and the result port -/

/-- A host operation starts: OP is latched (R29). Which operation writes which latch is DEDUCED (log 12). -/
def latchOp (op : HostOp) (s : State) : State := { s with op := op }

/-- The operands of a request are latched: ID, INSTR, PARAMS (R29). -/
def latchRequest (address instruction : Byte) (parameters : List Byte) (s : State) : State :=
  { s with id := address, instr := instruction, params := parameters }

/-- The result is delivered (R60). -/
def deliver (r : OpResult) (s : State) : State := { s with result := r }

/-! ### The CRC engine and the packet builder over the state -/

/-- CRC16 runs: ACC ends at the result (R105). -/
def runCrc (bytes : List Byte) (s : State) : State := { s with acc := crc16 bytes }

/-- BUILD_PACKET runs: its checksum goes through ACC (R115). -/
def runBuild (address instruction : Byte) (parameters : List Byte) (s : State) : List Byte × State :=
  let s' := runCrc (packetBody address instruction parameters) s
  (packetBody address instruction parameters ++ le16 s'.acc, s')

/-- Parameters fit the length field, or the operation is refused (R119). -/
def checkParams (parameters : List Byte) : Attempt Unit :=
  if parameters.length > Config.maxParams then refuse .paramsTooLong else .ok ()

/-- The bus has a transport, or the operation has no step (R253; which operations need it: log 17). -/
def checkOpen (s : State) : Attempt Unit :=
  if s.bus.isOpen then .ok () else stuck .transportClosed

/-! ### The transport -/

/-- The environment's part of the next transport event; a quiet line when nothing is scripted (log 4). -/
def lineNow (s : State) : LineStep := s.line.headD {}

/-- `RxFlush()`: pending input is discarded, what arrived until now included (R38, R131). -/
def rxFlush (s : State) : State :=
  { s with rxq := [], line := s.line.tail, events := s.events ++ [(s.phase, .flush)] }

/-- `TxWrite(B)`: the bytes go on the line, and what the receiver hears of them enters RXQ (R144). It is total (D26). -/
def txWrite (b : List Byte) (s : State) : State :=
  { s with
    rxq := s.rxq ++ (lineNow s).arrives ++ (lineNow s).heard.getD b
    line := s.line.tail
    events := s.events ++ [(s.phase, .write b)] }

/-- RXQ when the next transport event takes place: what devices appended meanwhile is in it (R38). -/
def pending (s : State) : List Byte := s.rxq ++ (lineNow s).arrives

/-- How many bytes `RxRead(n)` may answer at most (R143). -/
def readLimit (n : Nat) (s : State) : Nat :=
  match (lineNow s).limit with
  | none => n
  | some k => min k n

/-- `RxRead(n)`: a prefix of RXQ of at most `n` bytes is returned and removed (R143). -/
def rxRead (n : Nat) (s : State) : List Byte × State :=
  let got := (pending s).take (readLimit n s)
  (got, { s with
    rxq := (pending s).drop (readLimit n s)
    line := s.line.tail
    events := s.events ++ [(s.phase, .read n got)] })

/-! ### Errors: raising and returning -/

/-- Entry (R226): `ERR <- E; PHASE <- FAILED; DIAG(E, info)`. ERRBYTE is as step 9 left it. -/
def raiseError (e : TxError) (s : State) : State :=
  { s with
    err := .failed e
    phase := .failed
    diag := s.diag ++ [.transactionError e (e.info s.errByte)] }

/-- The return, after an error as after a success: `PHASE <- IDLE` (R226, R227, R140). -/
def returnIdle (s : State) : State := { s with phase := .idle }

/-! ### The hardware-error hooks -/

/-- A diagnostic note of the facade (R228). -/
def note (d : Diag) (s : State) : State := { s with diag := s.diag ++ [d] }

/-- The event a subscriber of this facade receives (R206, R207). -/
def hwErrOf (place : Nat) (f : Facade) (h : Hook) : HwErr :=
  { hook := h, facade := place, fid := f.fid, model := f.model.map (·.number) }

/-- One subscriber is notified. -/
def notifyOne (place : Nat) (f : Facade) (s : State) (h : Hook) : State :=
  { s with hwerr := s.hwerr ++ [hwErrOf place f h] }

/-- The fan-out: one event per registered subscriber, in registration order, synchronously; a request made meanwhile is
refused (R206, R207; log 18). -/
def notifyAll (place : Nat) (f : Facade) (s : State) : State :=
  { f.hooks.foldl (notifyOne place f) { s with notifying := true } with notifying := false }

/-! ### Fetching a request -/

/-- The next request and the state without it. -/
def takeRequest (s : State) : Option (Request × State) :=
  match s.port with
  | [] => none
  | r :: rest => some (r, { s with port := rest })

end Sys2Proof.Machine
end

