-- ==== Sys2Proof/Machine/Transaction.lean ====
section
/-! DEFINITION. The transaction: its ten steps, each a shared operation, and the three requests built on it
(42_bus_transport R130 to R152). -/

namespace Sys2Proof.Machine

/-- A step of a transaction: it goes on, or raises an error in the state it reached. -/
abbrev TxStep := Except (TxError × State) State

/-- RESP = HDR ++ BODY (R26, R137). -/
def State.resp (s : State) : List Byte := s.hdr ++ s.body

/-- Step 1, flush (R131). -/
def step1 (s : State) : State := rxFlush { s with phase := .s1 }

/-- Step 2, send (R132); SEND_BLIND runs it alone (R154). -/
def step2 (address instruction : Byte) (parameters : List Byte) (s : State) : State :=
  let built := runBuild address instruction parameters { s with phase := .s2 }
  txWrite built.1 { built.2 with txbuf := built.1 }

/-- Step 3, echo check (R133). -/
def step3 (s : State) : TxStep :=
  let got := rxRead s.txbuf.length { s with phase := .s3 }
  let s : State := { got.2 with echo := got.1 }
  if s.echo ≠ s.txbuf then .error (.transmissionMismatch, s) else .ok s

/-- Step 4, header (R134). -/
def step4 (s : State) : TxStep :=
  let got := rxRead Config.headerLength { s with phase := .s4 }
  let s : State := { got.2 with hdr := got.1 }
  if s.hdr.length < Config.headerLength then .error (.shortHeader, s) else .ok s

/-- Step 5, header match (R135). -/
def step5 (s : State) : TxStep :=
  let s : State := { s with phase := .s5 }
  if s.hdr.take 5 ≠ s.txbuf.take 5 then .error (.headerMismatch, s) else .ok s

/-- Step 6, body (R136). -/
def step6 (s : State) : TxStep :=
  let got := rxRead (headerLen s.hdr).toNat { s with phase := .s6, len := headerLen s.hdr }
  let s : State := { got.2 with body := got.1 }
  if s.body.length < s.len.toNat then .error (.incompletePacket, s) else .ok s

/-- Step 7, checksum (R137, R112), taken literally for every LEN. -/
def step7 (s : State) : TxStep :=
  let s := runCrc (dropLast2 s.resp) { s with phase := .s7 }
  if s.acc ≠ trailer s.resp then .error (.badChecksum, s) else .ok s

/-- Step 8, status code (R138, R141). -/
def step8 (s : State) : TxStep :=
  let s : State := { s with phase := .s8 }
  if s.len.toNat < 4 ∨ s.resp.getD 7 0 ≠ Config.codeStatus then .error (.notAStatusPacket, s) else .ok s

/-- Step 9, error byte (R139). -/
def step9 (s : State) : TxStep :=
  let s : State := { s with phase := .s9, errByte := s.resp.getD 8 0 }
  if errorBitsSet s.errByte then .error (.servoReportedError, s) else .ok s

/-- Step 10, result (R140). -/
def step10 (s : State) : State := { s with phase := .s10, err := .ok }

/-- Steps 3 to 9, in order, the first that raises ending them (R224). -/
def receiveSteps (s : State) : TxStep := do
  let s ← step3 s
  let s ← step4 s
  let s ← step5 s
  let s ← step6 s
  let s ← step7 s
  let s ← step8 s
  step9 s

/-- How a transaction ends: by step 10, or by raising (R226); then PHASE is IDLE. -/
def endTransaction (r : TxStep) : TxResult × State :=
  match r with
  | .ok s => (.ok (payloadOf s.resp), returnIdle (step10 s))
  | .error (e, s) => (.err e (e.info s.errByte), returnIdle (raiseError e s))

/-- TRANSACT from step 1 on (R142). -/
def runTransaction (address instruction : Byte) (parameters : List Byte) (s : State) : TxResult × State :=
  endTransaction (receiveSteps (step2 address instruction parameters (step1 s)))

/-- TRANSACT: refused for over-long parameters before step 1 (R119, R142), no step on a closed transport (R253); else its
operands are latched and its steps run. -/
def transactOp (address instruction : Byte) (parameters : List Byte) (s : State) : Attempt (TxResult × State) := do
  checkParams parameters
  checkOpen s
  .ok (runTransaction address instruction parameters (latchRequest address instruction parameters s))

/-- A transaction's payload, `absent` on any error (R156). -/
def TxResult.payload? : TxResult → Option (List Byte)
  | .ok p => some p
  | .err _ _ => none

/-- The model number of a ping reply: payload bytes 1 and 2, `absent` if they do not both exist (R148, R149). -/
def TxResult.model? : TxResult → Option Word
  | .ok (_ :: lo :: hi :: _) => some (word16 lo hi)
  | _ => none

/-- PING (R148). -/
def pingOp (address : Byte) (s : State) : Attempt (Option Word × State) := do
  let (r, s) ← transactOp address Config.codePing [] s
  .ok (r.model?, s)

/-- READ (R150). -/
def readOp (address : Byte) (regAddr length : Word) (s : State) : Attempt (Option (List Byte) × State) := do
  let (r, s) ← transactOp address Config.codeRead (readParams regAddr length)
    { s with regAddr := regAddr, rlen := length }
  .ok (r.payload?, s)

/-- WRITE (R152). -/
def writeOp (address : Byte) (regAddr : Word) (data : List Byte) (s : State) :
    Attempt (Option (List Byte) × State) := do
  let (r, s) ← transactOp address Config.codeWrite (writeParams regAddr data)
    { s with regAddr := regAddr, data := data }
  .ok (r.payload?, s)

end Sys2Proof.Machine
end

