-- ==== Sys2Proof/Machine/BusOps.lean ====
section
/-! DEFINITION. The bus operations as instructions: TRANSACT, PING, READ, WRITE, SEND_BLIND, and the three instruction
packets, whose rows' rules are PING's, READ's and WRITE's (42_bus_transport, 30_encoding R102). -/

namespace Sys2Proof.Machine

/-- TRANSACT (R130, R142). -/
def execTransact (address instruction : Byte) (parameters : List Byte) (s : State) :
    Host.Outcome State Fault Refusal :=
  Attempt.outcome do
    let (r, s) ← transactOp address instruction parameters (latchOp .transact s)
    .ok (deliver (.transacted r) s)

/-- PING (R148, R149). -/
def execPing (address : Byte) (s : State) : Host.Outcome State Fault Refusal :=
  Attempt.outcome do
    let (m, s) ← pingOp address (latchOp .ping s)
    .ok (deliver (.model m) s)

/-- READ (R150, R151). -/
def execRead (address : Byte) (regAddr length : Word) (s : State) : Host.Outcome State Fault Refusal :=
  Attempt.outcome do
    let (p, s) ← readOp address regAddr length (latchOp .read s)
    .ok (deliver (.payload p) s)

/-- WRITE (R152). -/
def execWrite (address : Byte) (regAddr : Word) (data : List Byte) (s : State) :
    Host.Outcome State Fault Refusal :=
  Attempt.outcome do
    let (p, s) ← writeOp address regAddr data (latchOp .write s)
    .ok (deliver (.payload p) s)

/-- SEND_BLIND: step 2 alone, no flush, no read, ERR and ERRBYTE not written (R154). -/
def execSendBlind (address instruction : Byte) (parameters : List Byte) (s : State) :
    Host.Outcome State Fault Refusal :=
  Attempt.outcome do
    checkParams parameters
    checkOpen s
    let s := latchRequest address instruction parameters (latchOp .sendBlind s)
    .ok (deliver .none (returnIdle (step2 address instruction parameters s)))

/-- PKT_PING: the packet is PING's request, and the row's rule is PING's (R102, R148; DEDUCED, log 2). The block makes
the checksum it sends itself, so the packet's own is not consulted (DESIGN CHOICE, log 3). -/
def execPktPing (id : Byte) (_crc : Word) (s : State) : Host.Outcome State Fault Refusal :=
  Attempt.outcome do
    let (m, s) ← pingOp id (latchOp .ping s)
    .ok (deliver (.model m) s)

/-- PKT_READ: the packet is READ's request, and the row's rule is READ's (R102, R150; logs 2, 3). -/
def execPktRead (id : Byte) (regAddr num _crc : Word) (s : State) : Host.Outcome State Fault Refusal :=
  Attempt.outcome do
    let (p, s) ← readOp id regAddr num (latchOp .read s)
    .ok (deliver (.payload p) s)

/-- PKT_WRITE: the packet is WRITE's request, and the row's rule is WRITE's (R102, R152; logs 2, 3). -/
def execPktWrite (id : Byte) (_len regAddr : Word) (data : List Byte) (_crc : Word) (s : State) :
    Host.Outcome State Fault Refusal :=
  Attempt.outcome do
    let (p, s) ← writeOp id regAddr data (latchOp .write s)
    .ok (deliver (.payload p) s)

end Sys2Proof.Machine
end

