-- ==== Sys2Proof/Machine/Codec.lean ====
section
/-! DEFINITION. The CRC engine and the packet codec as instructions (40_crc, 41_packet_codec). None of them performs a
transport event. -/

namespace Sys2Proof.Machine

/-- CRC16: the seed operand is ignored (R105, R107). -/
def execCrc16 (bytes : List Byte) (_seed : Option Word) (s : State) : Host.Outcome State Fault Refusal :=
  let s := runCrc bytes (latchOp .crc16 s)
  .next (deliver (.word s.acc) s)

/-- BUILD_PACKET: ACC is written, TXBUF is not (R115); over-long parameters are refused (R119). -/
def execBuildPacket (address instruction : Byte) (parameters : List Byte) (s : State) :
    Host.Outcome State Fault Refusal :=
  Attempt.outcome do
    checkParams parameters
    let built := runBuild address instruction parameters
      (latchRequest address instruction parameters (latchOp .buildPacket s))
    .ok (deliver (.bytes built.1) built.2)

/-- PKT_STATUS: the row's rule is field extraction from a received packet (R121): the seven bytes of the header and as
many more as the length field says (R87, R136). Its fields are the result. No step of a transaction runs, so no working
register is written (R20, R24 to R26): DEDUCED, log 24. Of a packet whose length field is below 4 the bytes beyond it are
not looked at (log 27). -/
def execPktStatus (id : Byte) (len : Word) (errByte : Byte) (data : List Byte) (crc : Word) (s : State) :
    Host.Outcome State Fault Refusal :=
  let packet := layPacket id len Config.codeStatus (errByte :: data) crc
  .next (deliver (.fields (fieldsOf (packet.take (Config.headerLength + len.toNat)) len)) s)

end Sys2Proof.Machine
end

