-- ==== Sys2Proof/Machine/Operands.lean ====
section
/-! DEFINITION. Operand forms: hexadecimal strings and truncation (43), register selection by name or index and the
well-formedness of maps (44, 10_state R42), padding (44 R202). -/

namespace Sys2Proof.Machine

/-! ### Numbers and strings -/

/-- `trunc(q)`: the integer part, rounding toward zero (R18, D13). -/
def trunc (q : Rat) : Int := q.num.tdiv q.den

/-- What becomes of an exact intermediate result in NUM (R15). DESIGN CHOICE (log 10): every result of the pipeline's
arithmetic is rounded, and so is the number that COMB or an operand is taken as; comparisons and truncation are exact. -/
def roundIn : NumDomain → Rat → Rat
  | .exact, q => q
  | .finite k, q => Config.finiteRound k q

/-- A lowercase base-16 digit (R172). -/
def hexDigit (n : Nat) : Char :=
  if n < 10 then Char.ofNat (48 + n) else Char.ofNat (87 + n)

/-- The base-16 digits of a number, least significant first; `fuel` bounds how many. -/
def hexDigitsUpTo : Nat → Nat → List Char
  | 0, _ => []
  | fuel + 1, n => if n = 0 then [] else hexDigit (n % 16) :: hexDigitsUpTo fuel (n / 16)

/-- `hexstr(n)`: lowercase, most significant digit first, no padding; "0" for zero (R172, R177). -/
def hexText (n : Nat) : Text := if n = 0 then ['0'] else (hexDigitsUpTo n n).reverse

/-- The value of a base-16 digit, of either case (R182). -/
def hexValue (c : Char) : Option Nat :=
  if '0' ≤ c ∧ c ≤ '9' then some (c.toNat - 48)
  else if 'a' ≤ c ∧ c ≤ 'f' then some (c.toNat - 87)
  else if 'A' ≤ c ∧ c ≤ 'F' then some (c.toNat - 55)
  else none

/-- The value of a digit string read from the left, after the digits that made `n`. -/
def hexValueFrom : Nat → Text → Option Nat
  | n, [] => some n
  | n, c :: cs =>
    match hexValue c with
    | some d => hexValueFrom (16 * n + d) cs
    | none => none

/-- The base-16 parse: non-empty strings of digits, nothing else (R182). -/
def parseHex (t : Text) : Option Nat := if t = [] then none else hexValueFrom 0 t

/-! ### Register selection -/

/-- A letter A to Z becomes its lower-case letter; every other character is unchanged (R197). -/
def lowerLetter (c : Char) : Char := if 'A' ≤ c ∧ c ≤ 'Z' then Char.ofNat (c.toNat + 32) else c

/-- `normalise(name)`: letters lower-cased, every U+0020 replaced by NAME_SEP (R197). -/
def normalise (sep name : Text) : Text :=
  name.flatMap fun c => if c = ' ' then sep else [lowerLetter c]

/-- Names, and normalised names, are unique within the map (R42 a, b). -/
def namesUnique (sep : Text) (map : List RegDescriptor) : Bool :=
  decide (map.map (·.name)).Nodup && decide (map.map fun d => normalise sep d.name).Nodup

/-- A descriptor's own conditions (R42 c, d, e). -/
def RegDescriptor.wf (d : RegDescriptor) : Bool :=
  decide (d.address ≤ 65535) && decide (1 ≤ d.size) && decide (d.size ≤ 65535) &&
    d.display.all fun p => p.boundsOk && (!d.access.canWrite || p.scaleOk)

/-- A well-formed register map (R42). -/
def mapWf (sep : Text) (map : List RegDescriptor) : Bool :=
  namesUnique sep map && map.all (·.wf)

/-- The descriptor an operand selects: REGMAP[k], or the one whose normalised name is the operand's (R196, R197). -/
def selectReg (sep : Text) (map : List RegDescriptor) : RegSel → Option RegDescriptor
  | .index k => map[k]?
  | .name n => map.find? fun d => normalise sep d.name == normalise sep n

/-- The facade instance an operation is called on; it must stand there and be bound to this block's bus (log 15). -/
def facadeAt (place : Nat) (s : State) : Attempt Facade :=
  match s.facades[place]? with
  | none => refuse .noSuchFacade
  | some f => if f.busRef = s.bus.ident then .ok f else refuse .facadeOnOtherBus

/-- `select(register)` of a facade: the facade has a model, its map's names are unique, and one is selected (R204 b, c). -/
def selectOn (f : Facade) (sel : RegSel) (s : State) : Attempt (List RegDescriptor × RegDescriptor) :=
  match f.model with
  | none => refuse .unselectableRegister
  | some m =>
    if namesUnique s.nameSep m.registerMap then
      match selectReg s.nameSep m.registerMap sel with
      | some d => .ok (m.registerMap, d)
      | none => refuse .unselectableRegister
    else refuse .illFormedMap

/-- Every descriptor of the map meets its own conditions (R204 c; log 14). -/
def checkMap (map : List RegDescriptor) : Attempt Unit :=
  if map.all (·.wf) then .ok () else refuse .illFormedMap

/-- `pad(d, size)`: the missing high-order bytes are zeros, which come last; too wide is refused (R202). -/
def pad (d : List Byte) (size : Nat) : Attempt (List Byte) :=
  if d.length ≤ size then .ok (d ++ List.replicate (size - d.length) 0) else refuse .valueTooWide

/-- DEVDB's answer for a model number (R16, R33). -/
def lookupModel (db : List DeviceModel) (number : Nat) : Option DeviceModel :=
  db.find? fun m => m.number == number

end Sys2Proof.Machine
end

