-- ==== Sys2Proof/Machine/Pipeline.lean ====
section
/-! DEFINITION. The register data model: the scale/offset pipeline stage by stage, DECODE and ENCODE
(43_register_data_model). -/

namespace Sys2Proof.Machine

/-! ### DECODE's stages -/

/-- DS2, offset: subtracted if present (R168). -/
def ds2Offset (num : NumDomain) (d : DisplaySpec) (v : Rat) : Rat :=
  match d.offset with
  | some o => roundIn num (v - o)
  | none => v

/-- DS3, scale: multiplied if present (R169). -/
def ds3Scale (num : NumDomain) (d : DisplaySpec) (v : Rat) : Rat :=
  match d.scale with
  | some k => roundIn num (v * k)
  | none => v

/-- DS4, cast (R170 to R174, R177). The passthrough tags never reach it. -/
def ds4Cast (tag : TypeTag) (raw : List Byte) (v : Rat) : Attempt Value :=
  match tag with
  | .int => .ok (.int (trunc v))
  | .float => .ok (.rat v)
  | .hex => if v.den = 1 ∧ 0 ≤ v.num then .ok (.text (hexText v.num.toNat)) else refuse .hexOfNonNatural
  | .bool => .ok (.truth (v != 0))
  | .bytes | .unknown _ => .ok (.bytes raw)

/-- DECODE: stages DS0 to DS4 over RAW, COMB, VAL, SPEC (R165). -/
def decodeOp (raw : List Byte) (spec : Option DisplaySpec) (s : State) : Attempt (Value × State) :=
  let s := { s with raw := raw, spec := spec }
  match spec with
  | none => .ok (.bytes raw, s)
  | some d =>
    if d.tag.numeric then do
      let s := { s with comb := fromLe raw }
      let s := { s with val := ds2Offset s.num d (roundIn s.num (s.comb : Rat)) }
      let s := { s with val := ds3Scale s.num d s.val }
      let v ← ds4Cast d.tag raw s.val
      .ok (v, s)
    else .ok (.bytes raw, s)

/-! ### ENCODE's stages -/

/-- ES0's checks on a display specification that converts (R191). -/
def es0Check (d : DisplaySpec) : Attempt Unit :=
  if d.scaleOk then
    if d.boundsOk then .ok () else refuse .minAboveMax
  else refuse .zeroScale

/-- ES1, parse: the operand as a number, by type tag (R181, R182, R192). A kind the tag does not admit is refused
(R96, log 13). -/
def es1Parse (tag : TypeTag) (v : Value) : Attempt Rat :=
  match tag, v with
  | .int, .int n => .ok n
  | .int, .rat q => if q.den = 1 then .ok q else refuse .intOperandNotIntegral
  | .float, .int n => .ok n
  | .float, .rat q => .ok q
  | .hex, .text t =>
    match parseHex t with
    | some n => .ok n
    | none => refuse .badHexString
  | .bool, .truth b => .ok (if b then 1 else 0)
  | _, _ => refuse .operandOutOfDomain

/-- ES2, scale: divided if present (R183). -/
def es2Scale (num : NumDomain) (d : DisplaySpec) (v : Rat) : Rat :=
  match d.scale with
  | some k => roundIn num (v / k)
  | none => v

/-- ES3, offset: added if present (R183). -/
def es3Offset (num : NumDomain) (d : DisplaySpec) (v : Rat) : Rat :=
  match d.offset with
  | some o => roundIn num (v + o)
  | none => v

/-- ES4's lower clamp (R184). -/
def clampMin (d : DisplaySpec) (v : Rat) : Rat :=
  match d.min with
  | some lo => if v < lo then lo else v
  | none => v

/-- ES4's upper clamp (R184). -/
def clampMax (d : DisplaySpec) (v : Rat) : Rat :=
  match d.max with
  | some hi => if hi < v then hi else v
  | none => v

/-- ES4, clamp, in raw units: `min`, then `max` (R184). -/
def es4Clamp (d : DisplaySpec) (v : Rat) : Rat := clampMax d (clampMin d v)

/-- ES5 and ES6: truncate and emit the minimal bytes (R185, R187, R188). -/
def es6Emit (v : Rat) : Attempt (List Byte) :=
  if trunc v < 0 then refuse .negativeRaw else .ok (minLe (trunc v).toNat)

/-- The passthrough of ENCODE: the value is a byte sequence already (R186). -/
def passBytes (v : Value) : Attempt (List Byte) :=
  match v with
  | .bytes b => .ok b
  | _ => refuse .operandOutOfDomain

/-- ENCODE: stages ES0 to ES6 over VAL and SPEC (R180). -/
def encodeOp (v : Value) (spec : Option DisplaySpec) (s : State) : Attempt (List Byte × State) :=
  let s := { s with spec := spec }
  match spec with
  | none => do
    let b ← passBytes v
    .ok (b, s)
  | some d =>
    if d.tag.numeric then do
      es0Check d
      let q ← es1Parse d.tag v
      let s := { s with val := roundIn s.num q }
      let s := { s with val := es2Scale s.num d s.val }
      let s := { s with val := es3Offset s.num d s.val }
      let s := { s with val := es4Clamp d s.val }
      let b ← es6Emit s.val
      .ok (b, s)
    else do
      let b ← passBytes v
      .ok (b, s)

/-! ### The instructions -/

/-- DECODE (R165). -/
def execDecode (raw : List Byte) (spec : Option DisplaySpec) (s : State) : Host.Outcome State Fault Refusal :=
  Attempt.outcome do
    let (v, s) ← decodeOp raw spec (latchOp .decode s)
    .ok (deliver (.value v) s)

/-- ENCODE (R180). -/
def execEncode (value : Value) (spec : Option DisplaySpec) (s : State) : Host.Outcome State Fault Refusal :=
  Attempt.outcome do
    let (b, s) ← encodeOp value spec (latchOp .encode s)
    .ok (deliver (.bytes b) s)

end Sys2Proof.Machine
end

