-- ==== Sys2Proof/Machine/FacadeOps.lean ====
section
/-! DEFINITION. The device facade: GET, SET, DEV_PING, and the host's actions on facades and bus that are no rows of the
opcode table (44_device_facade; 70 R252, R253). -/

namespace Sys2Proof.Machine

/-- The hooks fire when a successful transaction's error byte is non-zero (R206). -/
def fireHooks (place : Nat) (f : Facade) (payload : List Byte) (s : State) : State :=
  if hardwareErrorSet (payload.getD 0 0) then notifyAll place f s else s

/-- GET (R199, R200, R204). Where DECODE is refused, after the bus traffic, the refusal carries no state (R231,
log 25). -/
def getOp (place : Nat) (sel : RegSel) (s : State) : Attempt (Option Value × State) := do
  let f ← facadeAt place s
  let (map, reg) ← selectOn f sel s
  if !reg.access.canRead then refuse .noGetter
  checkMap map
  let (r, s) ← readOp f.fid (BitVec.ofNat 16 reg.address) (BitVec.ofNat 16 reg.size) s
  match r with
  | none => .ok (none, note .getFailed s)
  | some p => do
    let (v, s) ← decodeOp (p.drop 1) reg.display (fireHooks place f p s)
    .ok (some v, s)

/-- SET (R201, R202, R204). ENCODE and the padding come before any bus traffic. -/
def setOp (place : Nat) (sel : RegSel) (v : Value) (s : State) : Attempt (Bool × State) := do
  let f ← facadeAt place s
  let (map, reg) ← selectOn f sel s
  if !reg.access.canWrite then refuse .noSetter
  let (d, s) ← encodeOp v reg.display s
  checkMap map
  let d ← pad d reg.size
  let (r, s) ← writeOp f.fid (BitVec.ofNat 16 reg.address) d s
  match r with
  | none => .ok (false, note .setFailed s)
  | some p => .ok (true, fireHooks place f p s)

/-- GET (R199). -/
def execGet (facade : Nat) (reg : RegSel) (s : State) : Host.Outcome State Fault Refusal :=
  Attempt.outcome do
    let (v, s) ← getOp facade reg (latchOp .get s)
    .ok (deliver (.gotValue v) s)

/-- SET (R201). -/
def execSet (facade : Nat) (reg : RegSel) (value : Value) (s : State) : Host.Outcome State Fault Refusal :=
  Attempt.outcome do
    let (b, s) ← setOp facade reg value (latchOp .set s)
    .ok (deliver (.flag b) s)

/-- DEV_PING: the model number is discarded, no hook fires (R203). -/
def execDevPing (facade : Nat) (s : State) : Host.Outcome State Fault Refusal :=
  Attempt.outcome do
    let f ← facadeAt facade s
    let (m, s) ← pingOp f.fid (latchOp .devPing s)
    .ok (deliver (.flag m.isSome) s)

/-! ### The host's actions besides the operations -/

/-- REGISTER_HOOK(h): the subscriber is appended to HOOKS (R205), on a closed bus too (log 28). -/
def registerHook (place : Nat) (h : Hook) (s : State) : Host.Outcome State Fault Refusal :=
  if place < s.facades.length then
    .next { s with facades := s.facades.modify place fun f => { f with hooks := f.hooks ++ [h] } }
  else .refused .noSuchFacade

/-- The creation of a facade on the bus, with the descriptor DEVDB has for the model number, or with none (R208, R252).
An ill-formed map is refused (R197). Whether the transport is still open is not looked at, in this action as in the others
of the host, since R253 speaks of operations alone (DESIGN CHOICE, unsafe, log 28). -/
def createFacade (fid : Byte) (number : Option Nat) (s : State) : Host.Outcome State Fault Refusal :=
  let model := number.bind (lookupModel s.devdb)
  if model.all fun m => mapWf s.nameSep m.registerMap then
    .next { s with facades := s.facades ++ [{ busRef := s.bus.ident, fid := fid, model := model, hooks := [] }] }
  else .refused .illFormedMap

/-- The transport closes (R35, R253); closing it again changes nothing (log 28). -/
def closeTransport (s : State) : Host.Outcome State Fault Refusal :=
  .next { s with bus := { s.bus with isOpen := false } }

/-- A reset in idle time (R248): every HOOKS is emptied, ERR and ERRBYTE are cleared, PHASE is IDLE, and the buffers are
empty (R40). BUSREF, FID, MODEL, TRANSPORT and the descriptors are the values given at creation and stay (R40). What R40
leaves unspecified stays as it was (DESIGN CHOICE, log 29). -/
def resetBlock (s : State) : State :=
  { s with
    phase := .idle, err := .ok, errByte := 0
    txbuf := [], echo := [], hdr := [], body := []
    facades := s.facades.map fun f => { f with hooks := [] } }

end Sys2Proof.Machine
end

