-- ==== Sys2Proof/Machine/Dispatch.lean ====
section
/-! DEFINITION. One arm per instruction, each one call of its meaning. -/

namespace Sys2Proof.Machine

def exec (i : Instr) (s : State) : Host.Outcome State Fault Refusal :=
  match i with
  | .pktPing id crc => Sys2Proof.Machine.execPktPing id crc s
  | .pktRead id regAddr num crc => Sys2Proof.Machine.execPktRead id regAddr num crc s
  | .pktWrite id len regAddr data crc => Sys2Proof.Machine.execPktWrite id len regAddr data crc s
  | .pktStatus id len errByte data crc => Sys2Proof.Machine.execPktStatus id len errByte data crc s
  | .crc16 bytes seed => Sys2Proof.Machine.execCrc16 bytes seed s
  | .buildPacket address instruction parameters => Sys2Proof.Machine.execBuildPacket address instruction parameters s
  | .transact address instruction parameters => Sys2Proof.Machine.execTransact address instruction parameters s
  | .ping address => Sys2Proof.Machine.execPing address s
  | .read address regAddr length => Sys2Proof.Machine.execRead address regAddr length s
  | .write address regAddr data => Sys2Proof.Machine.execWrite address regAddr data s
  | .sendBlind address instruction parameters => Sys2Proof.Machine.execSendBlind address instruction parameters s
  | .decode raw spec => Sys2Proof.Machine.execDecode raw spec s
  | .encode value spec => Sys2Proof.Machine.execEncode value spec s
  | .get facade reg => Sys2Proof.Machine.execGet facade reg s
  | .set facade reg value => Sys2Proof.Machine.execSet facade reg value s
  | .devPing facade => Sys2Proof.Machine.execDevPing facade s

end Sys2Proof.Machine
end

