-- ==== Sys2Proof/Machine/Step.lean ====
section
/-! DEFINITION. One step of the machine: it takes the next request at the port and runs it to its end. -/

namespace Sys2Proof.Machine

/-- A request is taken (R60, R205, R208, R248, R253): a command is decoded and executed, a host action done (log 16). -/
def runRequest (r : Request) (s : State) : Host.Outcome State Fault Refusal :=
  match r with
  | .command bytes =>
    match decodeCommand bytes with
    | .ok i => exec i s
    | .error e => .refused (.badCommand e)
  | .registerHook f h => registerHook f h s
  | .createFacade fid number => createFacade fid number s
  | .closeTransport => closeTransport s
  | .reset => .next (resetBlock s)

/-- With no request waiting the block is idle and nothing changes (R237, R246; log 21). A request made during a
notification is refused (R207). One made while PHASE is not IDLE is held, not refused and not interleaved (R60, R66): it
stays where it waits; so a reset in the middle of a transaction has no step (R248, U14). One operation is one step
(log 11). -/
def step (s : State) : Host.Outcome State Fault Refusal :=
  match takeRequest s with
  | none => .next s
  | some (r, s') =>
    if s.notifying then .refused .reentrantRequest
    else if s.phase = .idle then runRequest r s'
    else .next s

/-- `s` with an instruction of the opcode table placed as the next request of an idle block: the host issues it (R246,
log 20). -/
def State.withFetchWord (s : State) (nbits w : Nat) : State :=
  { s with port := .command (tableCommand nbits w) :: s.port, phase := .idle, notifying := false }

end Sys2Proof.Machine
end

