-- ==== Sys2Proof/Safety.lean ====
section
/-! DEFINITION. What a sound state is and what claims say of an outcome: the invariant of the machine, and the
completion of an operation. -/

namespace Sys2Proof.Machine

/-- The phases a transport event may take place in: the block flushes in S1, drives the line only in S2, and listens in
S3, S4 and S6 (R131, R132, R146). -/
def TransportEvent.allowedIn (e : TransportEvent) (p : Phase) : Bool :=
  match e with
  | .flush => p == .s1
  | .write _ => p == .s2
  | .read _ _ => p == .s3 || p == .s4 || p == .s6

/-- A byte sequence that BUILD_PACKET can have returned (R115). -/
def Framed (p : List Byte) : Prop :=
  ∃ address code parameters, parameters.length ≤ Config.maxParams ∧ p = buildPacketBytes address code parameters

/-- What holds of a state between two operations. -/
structure State.Inv (s : State) : Prop where
  /-- No transaction runs (R27, R227). -/
  idle      : s.phase = .idle
  /-- No notification is in progress (R207). -/
  quiet     : s.notifying = false
  /-- HDR holds at most seven bytes (R24). -/
  hdr       : s.hdr.length ≤ Config.headerLength
  /-- BODY holds at most LEN bytes (R26). -/
  body      : s.body.length ≤ s.len.toNat
  /-- TXBUF is empty or a packet (R22). -/
  txbuf     : s.txbuf = [] ∨ Framed s.txbuf
  /-- With ERR = OK, ERRBYTE has no error bit (R28, R139). -/
  okByte    : s.err = .ok → errorBitsSet s.errByte = false
  /-- With ERR = ServoReportedError, ERRBYTE has one (R28, R139). -/
  servoByte : s.err = .failed .servoReportedError → errorBitsSet s.errByte = true
  /-- Every transport event took place in a phase that may have it (R146). -/
  events    : ∀ e ∈ s.events, e.2.allowedIn e.1 = true
  /-- Every facade's map is well formed (R42). -/
  maps      : ∀ f ∈ s.facades, ∀ m, f.model = some m → mapWf s.nameSep m.registerMap = true

/-- The operation completes, in a state of which `P` holds. -/
def Completes (o : Host.Outcome State Fault Refusal) (P : State → Prop) : Prop := ∃ t, o = .next t ∧ P t

/-- A run of any length from `s` never finds the block busy: between two steps no transaction runs and no notification is
in progress, so that no request is held and none is refused as re-entrant (R60, R66, R207). -/
def NeverBusy (s : State) : Prop :=
  ∀ n, Sys2Proof.core.run n s ≠ .refused Refusal.reentrantRequest ∧
    ∀ t : State, Sys2Proof.core.run n s = .next t → t.phase = .idle ∧ t.notifying = false

end Sys2Proof.Machine
end

