-- ==== Sys2Proof/Certificates/Slice0/Obligations.lean ====
section
/-! DEFINITION. The statements for the provers. The definitions under `Sys2Proof.Claims` write the spec's rules a second
time, from its prose and in other terms than the model's (integers, floor and ceiling, digits, one exchange on the line as
a whole), so that a statement compares two things. -/

namespace Sys2Proof.Claims

open Sys2Proof.Machine

/-! ### The CRC engine, three more times -/

/-- R105's loop over unbounded integers, with its `mod 65536`. -/
def crcLoop : List Byte → Nat → Nat
  | [], acc => acc
  | b :: bs, acc =>
    crcLoop bs (((acc <<< 8) ^^^ (crcTable.getD ((acc >>> 8) ^^^ b.toNat) 0).toNat) % 65536)

/-- One of R109's eight rounds. -/
def genRound (c : Word) : Word := if c.getLsbD 15 then (c <<< 1) ^^^ 0x8005 else c <<< 1

/-- R109's generation rule for one entry of the table. -/
def genEntry (i : Byte) : Word := Nat.repeat genRound 8 (i.setWidth 16 <<< 8)

/-- One message bit through the bit-serial divider by x^16 + x^15 + x^2 + 1. -/
def serialBit (acc : Word) (bit : Bool) : Word :=
  if acc.getLsbD 15 != bit then (acc <<< 1) ^^^ 0x8005 else acc <<< 1

/-- A byte's bits, most significant first. -/
def byteBits (b : Byte) : List Bool := [7, 6, 5, 4, 3, 2, 1, 0].map b.getLsbD

/-- The bit-serial CRC: no table. -/
def crcSerial (bytes : List Byte) : Word := (bytes.flatMap byteBits).foldl serialBit 0

/-! ### One exchange on the line -/

/-- How many bytes a read of `n` answers at most. -/
def atMost (limit : Option Nat) (n : Nat) : Nat :=
  match limit with
  | none => n
  | some k => min k n

/-- The number in a header's bytes 5 and 6. -/
def lenIn (hdr : List Byte) : Nat := (hdr.getD 5 0).toNat + 256 * (hdr.getD 6 0).toNat

/-- What the three reads of a transaction would return on a given line, and what each would leave. -/
structure Exchange where
  echo      : List Byte
  afterEcho : List Byte
  hdr       : List Byte
  afterHdr  : List Byte
  body      : List Byte
  afterBody : List Byte

/-- The exchange that sending the packet `p` starts: RXQ is flushed, the write is heard, then the reads of steps 3, 4
and 6 each take a prefix of what is there (R131 to R136, R143, R144). -/
def exchange (p : List Byte) (line : List LineStep) : Exchange :=
  let w := line.getD 1 {}
  let r3 := line.getD 2 {}
  let r4 := line.getD 3 {}
  let r6 := line.getD 4 {}
  let q3 := w.arrives ++ w.heard.getD p ++ r3.arrives
  let n3 := atMost r3.limit p.length
  let q4 := q3.drop n3 ++ r4.arrives
  let n4 := atMost r4.limit 7
  let q6 := q4.drop n4 ++ r6.arrives
  let n6 := atMost r6.limit (lenIn (q4.take n4))
  { echo := q3.take n3, afterEcho := q3.drop n3, hdr := q4.take n4, afterHdr := q4.drop n4
    body := q6.take n6, afterBody := q6.drop n6 }

/-- The received packet, header and body. -/
def Exchange.resp (x : Exchange) : List Byte := x.hdr ++ x.body

/-- The first condition, in step order, that fails (R216, R224); `none` if all hold. -/
def verdict (p : List Byte) (x : Exchange) : Option TxError :=
  let n := x.resp.length
  if x.echo ≠ p then some .transmissionMismatch
  else if x.hdr.length < 7 then some .shortHeader
  else if x.hdr.take 5 ≠ p.take 5 then some .headerMismatch
  else if x.body.length < lenIn x.hdr then some .incompletePacket
  else if crcLoop (x.resp.take (n - 2)) 0 ≠
      (x.resp.getD (n - 2) 0).toNat + 256 * (x.resp.getD (n - 1) 0).toNat then some .badChecksum
  else if lenIn x.hdr < 4 ∨ x.resp.getD 7 0 ≠ 0x55 then some .notAStatusPacket
  else if (x.resp.getD 8 0).toNat % 128 ≠ 0 then some .servoReportedError
  else none

/-- How many of the five transport events happen before the transaction ends (R265). -/
def eventCount : Option TxError → Nat
  | some .transmissionMismatch => 3
  | some .shortHeader => 4
  | some .headerMismatch => 4
  | _ => 5

/-- What a transaction leaves in RXQ (R145). -/
def leftover (x : Exchange) : Option TxError → List Byte
  | some .transmissionMismatch => x.afterEcho
  | some .shortHeader => x.afterHdr
  | some .headerMismatch => x.afterHdr
  | _ => x.afterBody

/-- The five transport events of a whole transaction, in order, each in its phase (R64 b, R146). -/
def allEvents (p : List Byte) (x : Exchange) : List (Phase × TransportEvent) :=
  [(.s1, .flush), (.s2, .write p), (.s3, .read p.length x.echo), (.s4, .read 7 x.hdr),
   (.s6, .read (lenIn x.hdr) x.body)]

/-- The payload of a received packet: from the error byte to before the checksum. -/
def Exchange.payload (x : Exchange) : List Byte := (x.resp.take (x.resp.length - 2)).drop 8

/-- What an error records (R216). -/
def infoOf (x : Exchange) : TxError → Option Byte
  | .servoReportedError => some (x.resp.getD 8 0)
  | _ => none

/-- The transaction got to step 6. -/
def reachesBody : Option TxError → Bool
  | some .transmissionMismatch | some .shortHeader | some .headerMismatch => false
  | _ => true

/-- The transaction got to step 7. -/
def reachesChecksum : Option TxError → Bool
  | some .transmissionMismatch | some .shortHeader | some .headerMismatch | some .incompletePacket => false
  | _ => true

/-- The operand latches of a request (R29). -/
def Latched (op : HostOp) (address code : Byte) (parameters : List Byte) (t : State) : Prop :=
  t.op = op ∧ t.id = address ∧ t.instr = code ∧ t.params = parameters

/-- What a transaction that sends `p` leaves in the registers, the line and the outputs (R142, R226), `notes` being what the
facade adds to DIAG behind it. -/
def AfterTransaction (p : List Byte) (s t : State) (notes : List Diag := []) : Prop :=
  let x := exchange p s.line
  let v := verdict p x
  t.txbuf = p ∧ t.phase = .idle ∧ t.echo = x.echo ∧
    t.hdr = (if v = some .transmissionMismatch then s.hdr else x.hdr) ∧
    t.len.toNat = (if reachesBody v then lenIn x.hdr else s.len.toNat) ∧
    t.body = (if reachesBody v then x.body else s.body) ∧
    t.acc = (if reachesChecksum v then crc16 (x.resp.take (x.resp.length - 2)) else crc16 (p.take (p.length - 2))) ∧
    t.err = v.elim .ok .failed ∧
    t.errByte = (if v = none ∨ v = some .servoReportedError then x.resp.getD 8 0 else s.errByte) ∧
    t.diag = s.diag ++ v.elim [] (fun e => [.transactionError e (infoOf x e)]) ++ notes ∧
    t.rxq = leftover x v ∧ t.line = s.line.drop (eventCount v) ∧
    t.events = s.events ++ (allEvents p x).take (eventCount v)

/-- What every operation leaves alone: the bus, descriptors and hooks, the parameters, the port (R33, R34). -/
def ConfigKept (s t : State) : Prop :=
  t.bus = s.bus ∧ t.facades = s.facades ∧ t.devdb = s.devdb ∧ t.nameSep = s.nameSep ∧ t.num = s.num ∧ t.port = s.port

/-- What a transaction by itself leaves alone besides: the pipeline registers, the hook events, the notification flag
(R20, R29, R203). -/
def OutsideKept (s t : State) : Prop :=
  ConfigKept s t ∧ t.raw = s.raw ∧ t.comb = s.comb ∧ t.val = s.val ∧ t.spec = s.spec ∧ t.hwerr = s.hwerr ∧
    t.notifying = s.notifying

/-- The line answers a transaction with the bytes of `reply`: nothing else arrives before the echo, the echo is exact, the
reply is there by the time the header is read with `tail` behind it, `late` arrives after that, no read falls short. -/
def LineAnswers (reply tail late : List Byte) (line : List LineStep) : Prop :=
  ∃ flush write echo header body rest, line = flush :: write :: echo :: header :: body :: rest ∧
    write.arrives = [] ∧ write.heard = none ∧ echo.arrives ++ header.arrives = reply ++ tail ∧ body.arrives = late ∧
    echo.limit = none ∧ header.limit = none ∧ body.limit = none

/-- The status packet of a device (R78, R122). -/
def statusReply (address errByte : Byte) (data : List Byte) : List Byte :=
  buildPacketBytes address 0x55 (errByte :: data)

/-- A successful transaction on such a line, whatever operation runs it. -/
def Succeeded (request reply : List Byte) (errByte : Byte) (tail late : List Byte) (s t : State) : Prop :=
  t.txbuf = request ∧ t.phase = .idle ∧ t.err = .ok ∧ t.errByte = errByte ∧ t.rxq = tail ++ late ∧
    t.echo = request ∧ t.hdr = reply.take 7 ∧ t.body = reply.drop 7 ∧ t.len.toNat = reply.length - 7 ∧
    t.acc = crc16 (reply.take (reply.length - 2)) ∧ t.diag = s.diag ∧
    t.events = s.events ++ [(.s1, .flush), (.s2, .write request), (.s3, .read request.length request),
      (.s4, .read 7 (reply.take 7)), (.s6, .read (reply.length - 7) (reply.drop 7))] ∧
    t.line = s.line.drop 5

/-! ### The register data model, once more -/

/-- What becomes of an intermediate result in NUM (R15): itself, or what a finite NUM makes of it, of which nothing is
known. -/
def rounded : NumDomain → Rat → Rat
  | .exact, q => q
  | .finite k, q => Config.finiteRound k q

/-- NUM represents these numbers exactly: there the rules bind a finite NUM too (R15). -/
def Represents (num : NumDomain) (qs : List Rat) : Prop := ∀ q ∈ qs, rounded num q = q

/-- The raw number taken through offset and scale, each result rounded in NUM (R168, R169, R176, log 10). -/
def engineering (num : NumDomain) (d : DisplaySpec) (raw : List Byte) : Rat :=
  let v := rounded num (fromLe raw)
  let v := d.offset.elim v fun o => rounded num (v - o)
  d.scale.elim v fun k => rounded num (v * k)

/-- DECODE's result; `none` where it is refused (R165). -/
def decodedValue (num : NumDomain) (spec : Option DisplaySpec) (raw : List Byte) : Option Value :=
  match spec with
  | none => some (.bytes raw)
  | some d =>
    let v := engineering num d raw
    match d.tag with
    | .bytes => some (.bytes raw)
    | .unknown _ => some (.bytes raw)
    | .int => some (.int (if 0 ≤ v then ⌊v⌋ else ⌈v⌉))
    | .float => some (.rat v)
    | .bool => some (.truth (decide (v ≠ 0)))
    | .hex => if 0 ≤ v ∧ (⌊v⌋ : Rat) = v then some (.text (Nat.toDigits 16 ⌊v⌋.toNat)) else none

/-- The digits of base 16 in order of their values, and the upper-case letters for 10 to 15. -/
def lowerDigits : Text := ['0', '1', '2', '3', '4', '5', '6', '7', '8', '9', 'a', 'b', 'c', 'd', 'e', 'f']
def upperDigits : Text := ['0', '1', '2', '3', '4', '5', '6', '7', '8', '9', 'A', 'B', 'C', 'D', 'E', 'F']

/-- A digit's value by its place in the lists. -/
def digitPlace (c : Char) : Nat :=
  if c ∈ lowerDigits then lowerDigits.idxOf c else upperDigits.idxOf c

/-- A non-empty string of base-16 digits (R182). -/
def IsNumeral (t : Text) : Prop := t ≠ [] ∧ ∀ c ∈ t, c ∈ lowerDigits ∨ c ∈ upperDigits

/-- The number a base-16 numeral stands for. -/
def numeralValue (t : Text) : Nat := t.foldl (fun n c => 16 * n + digitPlace c) 0

/-- The number an operand of ENCODE stands for under a type tag (R181, R182, R192, R96). -/
inductive Denotes : TypeTag → Value → Rat → Prop where
  | int      (n : Int)  : Denotes .int (.int n) n
  | integral (n : Int)  : Denotes .int (.rat n) n
  | floatInt (n : Int)  : Denotes .float (.int n) n
  | float    (q : Rat)  : Denotes .float (.rat q) q
  | hex      (t : Text) : IsNumeral t → Denotes .hex (.text t) (numeralValue t)
  | yes                 : Denotes .bool (.truth true) 1
  | no                  : Denotes .bool (.truth false) 0

/-- A number clamped to `min`, then to `max` (R184). -/
def clamped (d : DisplaySpec) (v : Rat) : Rat :=
  let v := d.min.elim v (max v)
  d.max.elim v (min v)

/-- The raw number of an operand's number: scale undone, then offset, each result rounded in NUM, then the clamp, in raw
units (R183, R184, log 10). -/
def rawNumber (num : NumDomain) (d : DisplaySpec) (q : Rat) : Rat :=
  let v := rounded num q
  let v := d.scale.elim v fun k => rounded num (v / k)
  clamped d (d.offset.elim v fun o => rounded num (v + o))

/-- The minimal little-endian bytes of a number, from its base-256 digits (R185). -/
def minimalBytes (n : Nat) : List Byte := (Nat.digits 256 n).map (BitVec.ofNat 8)

/-- ENCODE accepts `v` under `spec` and its bytes are `b` (R180). -/
inductive EncodesTo (num : NumDomain) : Option DisplaySpec → Value → List Byte → Prop where
  | absent (b : List Byte) : EncodesTo num none (.bytes b) b
  | pass (d : DisplaySpec) (b : List Byte) : d.tag.numeric = false → EncodesTo num (some d) (.bytes b) b
  | number (d : DisplaySpec) (v : Value) (q : Rat) : d.scale ≠ some 0 →
      (∀ lo hi, d.min = some lo → d.max = some hi → lo ≤ hi) → Denotes d.tag v q → -1 < rawNumber num d q →
      EncodesTo num (some d) v (minimalBytes ⌊rawNumber num d q⌋.toNat)

/-! ### Facades -/

/-- The letters A to Z and a to z, in order. -/
def upperLetters : Text := ['A', 'B', 'C', 'D', 'E', 'F', 'G', 'H', 'I', 'J', 'K', 'L', 'M', 'N', 'O', 'P', 'Q', 'R', 'S', 'T',
  'U', 'V', 'W', 'X', 'Y', 'Z']
def lowerLetters : Text := ['a', 'b', 'c', 'd', 'e', 'f', 'g', 'h', 'i', 'j', 'k', 'l', 'm', 'n', 'o', 'p', 'q', 'r', 's', 't',
  'u', 'v', 'w', 'x', 'y', 'z']

/-- `NormalisesTo sep name t`: the name normalises to `t`. A letter A to Z becomes its lower-case letter, U+0020 becomes the
separator, and every other character is unchanged (R197). -/
inductive NormalisesTo (sep : Text) : Text → Text → Prop where
  | nil : NormalisesTo sep [] []
  | space {name t : Text} : NormalisesTo sep name t → NormalisesTo sep (' ' :: name) (sep ++ t)
  | letter {k : Nat} {up low : Char} {name t : Text} : upperLetters[k]? = some up → lowerLetters[k]? = some low →
      NormalisesTo sep name t → NormalisesTo sep (up :: name) (low :: t)
  | other {c : Char} {name t : Text} : c ≠ ' ' → c ∉ upperLetters → NormalisesTo sep name t →
      NormalisesTo sep (c :: name) (c :: t)

/-- Two names are the same register name: they normalise alike (R197). -/
def SameName (sep a b : Text) : Prop := ∃ t, NormalisesTo sep a t ∧ NormalisesTo sep b t

/-- Two descriptors of the map have the same name, or equal normalised names, which equal names have (R42 a, b). -/
def NamesCollide (sep : Text) (map : List RegDescriptor) : Prop :=
  ∃ (i j : Nat) (a b : RegDescriptor), i < j ∧ map[i]? = some a ∧ map[j]? = some b ∧ SameName sep a.name b.name

/-- A descriptor fails R42 (c), (d) or (e). -/
def IllFormed (d : RegDescriptor) : Prop :=
  65535 < d.address ∨ d.size = 0 ∨ 65535 < d.size ∨
    (∃ p lo hi, d.display = some p ∧ p.min = some lo ∧ p.max = some hi ∧ hi < lo) ∨
    ∃ p, d.display = some p ∧ p.scale = some 0 ∧ d.access ≠ .read

/-- A register map that R42 admits. -/
def MapWellFormed (sep : Text) (map : List RegDescriptor) : Prop := ¬ NamesCollide sep map ∧ ∀ d ∈ map, ¬ IllFormed d

/-- The operand of GET and SET chooses this descriptor of the map: REGMAP[k], or one of the operand's name (R96, R196,
R197). -/
inductive Chooses (sep : Text) (map : List RegDescriptor) : RegSel → RegDescriptor → Prop where
  | index {k : Nat} {reg : RegDescriptor} : map[k]? = some reg → Chooses sep map (.index k) reg
  | name {n : Text} {reg : RegDescriptor} : reg ∈ map → SameName sep n reg.name → Chooses sep map (.name n) reg

/-- What GET and SET need of the facade they are called on: it stands there, bound to this bus, with a model whose map is
well formed and from which the operand chooses `reg` (R42, R196, R204). -/
def Selects (place : Nat) (sel : RegSel) (s : State) (f : Facade) (reg : RegDescriptor) : Prop :=
  s.facades[place]? = some f ∧ f.busRef = s.bus.ident ∧
    ∃ m, f.model = some m ∧ MapWellFormed s.nameSep m.registerMap ∧ Chooses s.nameSep m.registerMap sel reg

/-- The events the facade's subscribers receive when the error byte is `0x80` (R206, R207). -/
def firedHooks (place : Nat) (f : Facade) (errByte : Byte) : List HwErr :=
  if errByte = 0x80 then
    f.hooks.map fun h => { hook := h, facade := place, fid := f.fid, model := f.model.map (·.number) }
  else []

/-- The instructions that run a transaction. -/
def runsTransaction : Instr → Bool
  | .pktPing _ _ | .pktRead _ _ _ _ | .pktWrite _ _ _ _ _ | .transact _ _ _ | .ping _ | .read _ _ _ | .write _ _ _
  | .get _ _ | .set _ _ _ | .devPing _ => true
  | .pktStatus _ _ _ _ _ | .crc16 _ _ | .buildPacket _ _ _ | .sendBlind _ _ _ | .decode _ _ | .encode _ _ => false

/-- `s` with the working registers, PHASE, ERR, ERRBYTE and the result port of `w` (R20 to R29). -/
def withWorking (w s : State) : State :=
  { s with
    acc := w.acc, txbuf := w.txbuf, echo := w.echo, hdr := w.hdr, len := w.len, body := w.body
    phase := w.phase, err := w.err, errByte := w.errByte
    op := w.op, id := w.id, instr := w.instr, params := w.params, regAddr := w.regAddr, rlen := w.rlen, data := w.data
    raw := w.raw, comb := w.comb, val := w.val, spec := w.spec, result := w.result }

/-- An outcome as it is seen from outside: the result port, RXQ, the line, the outputs, facades and port, without the
working registers. -/
def visible : Host.Outcome State Fault Refusal → Host.Outcome State Fault Refusal
  | .next t => .next (withWorking { State.reset with result := t.result } t)
  | .fault f => .fault f
  | .refused r => .refused r

end Sys2Proof.Claims

open Sys2Proof Sys2Proof.Machine Sys2Proof.Claims

/-! ## Reset -/

/-- R40, the values it gives: PHASE = IDLE, ERR = OK, ERRBYTE = 0, every facade's HOOKS empty, TXBUF, ECHO, HDR and BODY
empty. (The other registers' reset values are the model's choice, logs 5 to 8, and are not stated.) -/
def Obligations.ResetRegisters : Prop :=
  State.reset.phase = .idle ∧ State.reset.err = .ok ∧ State.reset.errByte = 0 ∧
    (∀ f ∈ State.reset.facades, f.hooks = []) ∧
    State.reset.txbuf = [] ∧ State.reset.echo = [] ∧ State.reset.hdr = [] ∧ State.reset.body = []

/-- The invariant holds at reset. -/
def Obligations.ResetMeetsInvariant : Prop := State.reset.Inv

/-! ## The CRC engine -/

/-- R105, R107: CRC16 completes with the value of the loop over integers, whatever the seed; it writes ACC, OP and the
result port and nothing else; the empty sequence gives 0. (That OP is latched is read from R29, log 12.) -/
def Obligations.Crc16RunsTheLoop : Prop :=
  (∀ bytes seed s, Completes (exec (.crc16 bytes seed) s) fun t =>
    t.acc.toNat = crcLoop bytes 0 ∧ t.result = .word t.acc ∧
      t = { s with op := .crc16, acc := t.acc, result := t.result }) ∧
  crcLoop [] 0 = 0 ∧ crcLoop [1, 2, 3, 4] 0 = 40499

/-- R107: no seed continues a CRC: every seed gives the outcome of none. -/
def Obligations.SeedIsIgnored : Prop :=
  (∀ bytes seed s, exec (.crc16 bytes (some seed)) s = exec (.crc16 bytes none) s) ∧
  ∀ s, Completes (exec (.crc16 [1, 2, 3, 4] (some 0xFFFF)) s) fun t => t.result = .word 0x9E33

/-- R106: the step for one byte, and feeding bytes one at a time from ACC = 0 gives CRC16 of the sequence, which the spec
marks as its own inference from R105. -/
def Obligations.CrcPerByteStep : Prop :=
  (∀ (acc : Word) (b : Byte), crcStep acc b =
    ((acc.extractLsb' 0 8).setWidth 16 <<< 8) ^^^ crcTable.getD (acc.extractLsb' 8 8 ^^^ b).toNat 0) ∧
  crc16 [] = 0 ∧ ∀ bytes b, crc16 (bytes ++ [b]) = crcStep (crc16 bytes) b

/-- R109: the table has 256 entries and each is the generation rule's. It rests on the table supplied from general
knowledge (log 9). -/
def Obligations.TableIsGenerated : Prop :=
  crcTable.length = 256 ∧ ∀ i : Byte, crcTable.getD i.toNat 0 = genEntry i

/-- The table-driven engine computes what the bit-serial divider by 0x8005 computes, on every byte sequence. It rests on
the table supplied from general knowledge (log 9). -/
def Obligations.CrcIsBitSerialDivision : Prop := ∀ bytes, crc16 bytes = crcSerial bytes

/-- R110: leading zero bytes change nothing; one byte gives its entry; the CRC is linear over exclusive or on sequences of
equal length. It rests on the table supplied from general knowledge (log 9). -/
def Obligations.CrcIsLinear : Prop :=
  (∀ bytes, crc16 (0 :: bytes) = crc16 bytes) ∧
  (∀ b : Byte, crc16 [b] = crcTable.getD b.toNat 0) ∧
  ∀ a b : List Byte, a.length = b.length → crc16 (List.zipWith (· ^^^ ·) a b) = crc16 a ^^^ crc16 b

/-- R112: the checker accepts a sequence exactly when the loop over all but its last two bytes gives the number in them,
low byte first. -/
def Obligations.CheckerRecomputes : Prop :=
  (∀ r : List Byte, 2 ≤ r.length → (crcOk r = true ↔
    crcLoop (r.take (r.length - 2)) 0 =
      (r.getD (r.length - 2) 0).toNat + 256 * (r.getD (r.length - 1) 0).toNat)) ∧
  crcOk [0xFF, 0xFF, 0xFD, 0x00, 0x04, 0x03, 0x00, 0x01, 0x19, 0x0A] = true ∧
  crcOk [0xFF, 0xFF, 0xFD, 0x00, 0x04, 0x03, 0x00, 0x01, 0x19, 0x0B] = false

/-! ## The packet codec -/

/-- R115, R116, R117: BUILD_PACKET completes on parameters that fit (the spec's decision D6); its packet has the length field
`len(parameters) + 3` = `len(P) - 7`, the checker accepts it, and its fields are the operands (R76). It writes ACC, which
ends as CRC16 of the packet without its last two bytes, the latches and the result port, and nothing else. (The latches are
read from R29, log 12, unsafe.) -/
def Obligations.BuiltPacketsKeepInvariants : Prop :=
  ∀ address code parameters s, parameters.length ≤ 65532 →
    Completes (exec (.buildPacket address code parameters) s) fun t =>
      ∃ p, t = { s with
          op := .buildPacket, id := address, instr := code, params := parameters, acc := t.acc, result := .bytes p } ∧
        t.acc.toNat = crcLoop (p.take (p.length - 2)) 0 ∧
        p = [0xFF, 0xFF, 0xFD, 0x00, address] ++ [p.getD 5 0, p.getD 6 0] ++ [code] ++ parameters ++
          [p.getD (p.length - 2) 0, p.getD (p.length - 1) 0] ∧
        (p.getD 5 0).toNat + 256 * (p.getD 6 0).toNat = parameters.length + 3 ∧
        (p.getD 5 0).toNat + 256 * (p.getD 6 0).toNat = p.length - 7 ∧
        crcOk p = true

/-- R119 (the spec's decision D6): with more than 65532 parameter bytes, BUILD_PACKET, TRANSACT and SEND_BLIND are
refused; with more than 65530 data bytes WRITE and its packet are. (The packet's clause is the model's: it runs WRITE, its
length field and checksum not consulted, logs 2 and 3.) -/
def Obligations.OverlongParametersAreRefused : Prop :=
  (∀ address code parameters s, 65532 < parameters.length →
    exec (.buildPacket address code parameters) s = .refused .paramsTooLong ∧
    exec (.transact address code parameters) s = .refused .paramsTooLong ∧
    exec (.sendBlind address code parameters) s = .refused .paramsTooLong) ∧
  ∀ address len reg data crc s, 65530 < data.length →
    exec (.write address reg data) s = .refused .paramsTooLong ∧
    exec (.pktWrite address len reg data crc) s = .refused .paramsTooLong

/-- R121, R122: PKT_STATUS completes for every packet, and writes the result port and nothing else. Of every packet that
decodes, whatever its length field and its checksum, the fields are those R121 reads from the 7 + LEN bytes, each defined
where R121 says; of a well-formed one the covered bytes and the checksum are BUILD_PACKET(id, 0x55, [errByte] ++ data).
(That it writes no register is read from R20, log 24; what decodes with a length field below 4 is the model's choice,
log 27.) -/
def Obligations.StatusPacketFields : Prop :=
  ∀ id len errByte data crc s, Completes (exec (.pktStatus id len errByte data crc) s) fun t =>
    t = { s with result := t.result } ∧
    (data.length = len.toNat - 4 → ∃ f, t.result = .fields f ∧
      let resp := ([0xFF, 0xFF, 0xFD, 0x00, id, len.extractLsb' 0 8, len.extractLsb' 8 8, 0x55, errByte] ++ data ++
        [crc.extractLsb' 0 8, crc.extractLsb' 8 8]).take (7 + len.toNat)
      f.marker = [0xFF, 0xFF, 0xFD, 0x00] ∧ f.id = id ∧ f.length = len ∧
        f.covered = resp.take (resp.length - 2) ∧
        f.checksum.toNat = (resp.getD (resp.length - 2) 0).toNat + 256 * (resp.getD (resp.length - 1) 0).toNat ∧
        f.instruction = (if 1 ≤ len.toNat then some 0x55 else none) ∧
        f.errByte = (if 2 ≤ len.toNat then some errByte else none) ∧
        f.payload = (if 4 ≤ len.toNat then some (errByte :: data) else none) ∧
        f.data = (if 4 ≤ len.toNat then some data else none) ∧
        (4 ≤ len.toNat → resp.length = data.length + 11 ∧ f.checksum = crc) ∧
        (WellFormed (.pktStatus id len errByte data crc) →
          f.covered ++ [f.checksum.extractLsb' 0 8, f.checksum.extractLsb' 8 8] = statusReply id errByte data))

/-! ## The bus transport -/

/-- R143 (the spec's decision D25): a read returns a prefix of what is pending, at most `n` bytes, and leaves the rest; it
falls short only where the line says so; a read of 0 returns nothing. -/
def Obligations.ReadsReturnPrefixes : Prop :=
  ∀ n s,
    (rxRead n s).1 ++ (rxRead n s).2.rxq = s.rxq ++ (s.line.headD {}).arrives ∧
    (rxRead n s).1.length ≤ n ∧
    ((s.line.headD {}).limit = none →
      (rxRead n s).1.length = min n (s.rxq ++ (s.line.headD {}).arrives).length) ∧
    (rxRead 0 s).1 = []

/-- R224, with R216, R226, R140: TRANSACT completes for all parameters that fit on an open bus. The reads' answers are judged
in step order, and the first condition that holds raises; ERR, ERRBYTE, DIAG, PHASE, the result, RXQ, the transport
events and the unread line are as that verdict says. It rests on the spec's own decisions that a length field below 4 is no
status packet (D8), what an error records (D3) and what DIAG is (D32); that the request's latches hold its operands is read
from R29 (log 12). -/
def Obligations.TransactReportsFirstFailure : Prop :=
  ∀ address code parameters s, s.bus.isOpen = true → parameters.length ≤ 65532 →
    Completes (exec (.transact address code parameters) s) fun t =>
      let p := buildPacketBytes address code parameters
      let x := exchange p s.line
      AfterTransaction p s t ∧ OutsideKept s t ∧ Latched .transact address code parameters t ∧
        t.regAddr = s.regAddr ∧ t.rlen = s.rlen ∧ t.data = s.data ∧
        t.result = .transacted (match verdict p x with
          | none => .ok x.payload
          | some e => .err e (infoOf x e))

/-- The headline: a device that answers a request with a status packet whose low seven error bits are zero is heard, for
every request, every data and every state of the block: TRANSACT returns the error byte and the data, having flushed,
sent the packet and read three times, and leaves what came after the reply. (The latches are read from R29, log 12.) -/
def Obligations.TransactReturnsTheReply : Prop :=
  ∀ address code parameters errByte data tail late s, s.bus.isOpen = true → parameters.length ≤ 65532 →
    data.length ≤ 65531 → errByte &&& 0x7F = 0 →
    LineAnswers (statusReply address errByte data) tail late s.line →
    Completes (exec (.transact address code parameters) s) fun t =>
      t.result = .transacted (.ok (errByte :: data)) ∧
      Succeeded (buildPacketBytes address code parameters) (statusReply address errByte data) errByte tail late s t ∧
      OutsideKept s t ∧ Latched .transact address code parameters t ∧
      t.regAddr = s.regAddr ∧ t.rlen = s.rlen ∧ t.data = s.data

/-- R148, R149: PING, and its packet, on an answered line: the model number is data bytes 0 and 1, low byte first, further
bytes ignored; with fewer than two data bytes the result is absent (the spec's decision D10). The packet's half, which holds
whatever its checksum, is the model's (it runs PING, log 2; its checksum is not consulted, log 3, unsafe); so are the
latches after the request (log 12). -/
def Obligations.PingReturnsModelNumber : Prop :=
  ∀ address crc errByte data tail late s i, (i = .ping address ∨ i = .pktPing address crc) → s.bus.isOpen = true →
    data.length ≤ 65531 → errByte &&& 0x7F = 0 →
    LineAnswers (statusReply address errByte data) tail late s.line →
    Completes (exec i s) fun t =>
      t.result = .model (match data with
        | lo :: hi :: _ => some (BitVec.ofNat 16 (lo.toNat + 256 * hi.toNat))
        | _ => none) ∧
      Succeeded [0xFF, 0xFF, 0xFD, 0x00, address, 0x03, 0x00, 0x01,
          (crc16 [0xFF, 0xFF, 0xFD, 0x00, address, 0x03, 0x00, 0x01]).extractLsb' 0 8,
          (crc16 [0xFF, 0xFF, 0xFD, 0x00, address, 0x03, 0x00, 0x01]).extractLsb' 8 8]
        (statusReply address errByte data) errByte tail late s t ∧
      OutsideKept s t ∧ Latched .ping address 0x01 [] t ∧
      t.regAddr = s.regAddr ∧ t.rlen = s.rlen ∧ t.data = s.data

/-- R150, R151: READ, and its packet, on an answered line: the raw payload, its length unchecked. The packet's half, which
holds whatever its checksum, is the model's (it runs READ, log 2; its checksum is not consulted, log 3, unsafe); so are the
latches after the request (log 12). -/
def Obligations.ReadReturnsPayload : Prop :=
  ∀ address reg num crc errByte data tail late s i,
    (i = .read address reg num ∨ i = .pktRead address reg num crc) → s.bus.isOpen = true →
    data.length ≤ 65531 → errByte &&& 0x7F = 0 →
    LineAnswers (statusReply address errByte data) tail late s.line →
    Completes (exec i s) fun t =>
      t.result = .payload (some (errByte :: data)) ∧
      Succeeded (buildPacketBytes address 0x02 [reg.extractLsb' 0 8, reg.extractLsb' 8 8, num.extractLsb' 0 8,
        num.extractLsb' 8 8]) (statusReply address errByte data) errByte tail late s t ∧
      OutsideKept s t ∧ Latched .read address 0x02 (le16 reg ++ le16 num) t ∧
      t.regAddr = reg ∧ t.rlen = num ∧ t.data = s.data

/-- R152: WRITE, and its packet, on an answered line: the payload of the device's confirmation; the packet sent carries the
register address, low byte first, and the data unchanged, no data at all included. The packet's half, which holds whatever
its length field and checksum, is the model's (it runs WRITE, log 2; neither is consulted, log 3, unsafe); so are the
latches after the request (log 12). -/
def Obligations.WriteSendsData : Prop :=
  ∀ address len reg bytes crc errByte data tail late s i,
    (i = .write address reg bytes ∨ i = .pktWrite address len reg bytes crc) → s.bus.isOpen = true →
    bytes.length ≤ 65530 → data.length ≤ 65531 → errByte &&& 0x7F = 0 →
    LineAnswers (statusReply address errByte data) tail late s.line →
    Completes (exec i s) fun t =>
      t.result = .payload (some (errByte :: data)) ∧
      Succeeded (buildPacketBytes address 0x03 ([reg.extractLsb' 0 8, reg.extractLsb' 8 8] ++ bytes))
        (statusReply address errByte data) errByte tail late s t ∧
      OutsideKept s t ∧ Latched .write address 0x03 (le16 reg ++ bytes) t ∧
      t.regAddr = reg ∧ t.rlen = s.rlen ∧ t.data = bytes

/-- A well-formed instruction packet sends itself: what its operation puts into TXBUF is the packet's own bytes. (That a
packet runs its row's operation is read from R102, log 2.) -/
def Obligations.InstructionPacketsSendThemselves : Prop :=
  ∀ i s t, ((∃ id crc, i = .pktPing id crc) ∨ (∃ id reg num crc, i = .pktRead id reg num crc) ∨
      ∃ id len reg data crc, i = .pktWrite id len reg data crc) →
    WellFormed i → exec i s = .next t → t.txbuf = encode i

/-- R156, R229: whatever the error, PING, READ and WRITE, and their packets, complete with `absent`; ERR and DIAG alone
tell which it was, as in TRANSACT. The packets' halves, which hold whatever their length field and checksum, are the model's
(logs 2 and 3, unsafe); that a length field below 4 is no status packet is the spec's decision D8; the latches are read from
R29 (log 12, unsafe). -/
def Obligations.EveryFailureIsAbsent : Prop :=
  ∀ address reg num bytes len crc s e, s.bus.isOpen = true → bytes.length ≤ 65530 →
    (verdict (buildPacketBytes address 0x01 []) (exchange (buildPacketBytes address 0x01 []) s.line) = some e →
      ∀ i, (i = .ping address ∨ i = .pktPing address crc) → Completes (exec i s) fun t =>
        t.result = .model none ∧ t.err = .failed e ∧ OutsideKept s t ∧
          AfterTransaction (buildPacketBytes address 0x01 []) s t ∧ Latched .ping address 0x01 [] t ∧
          t.regAddr = s.regAddr ∧ t.rlen = s.rlen ∧ t.data = s.data) ∧
    (verdict (buildPacketBytes address 0x02 (le16 reg ++ le16 num))
        (exchange (buildPacketBytes address 0x02 (le16 reg ++ le16 num)) s.line) = some e →
      ∀ i, (i = .read address reg num ∨ i = .pktRead address reg num crc) → Completes (exec i s) fun t =>
        t.result = .payload none ∧ t.err = .failed e ∧ OutsideKept s t ∧
          AfterTransaction (buildPacketBytes address 0x02 (le16 reg ++ le16 num)) s t ∧
          Latched .read address 0x02 (le16 reg ++ le16 num) t ∧ t.regAddr = reg ∧ t.rlen = num ∧ t.data = s.data) ∧
    (verdict (buildPacketBytes address 0x03 (le16 reg ++ bytes))
        (exchange (buildPacketBytes address 0x03 (le16 reg ++ bytes)) s.line) = some e →
      ∀ i, (i = .write address reg bytes ∨ i = .pktWrite address len reg bytes crc) → Completes (exec i s) fun t =>
        t.result = .payload none ∧ t.err = .failed e ∧ OutsideKept s t ∧
          AfterTransaction (buildPacketBytes address 0x03 (le16 reg ++ bytes)) s t ∧
          Latched .write address 0x03 (le16 reg ++ bytes) t ∧ t.regAddr = reg ∧ t.rlen = s.rlen ∧ t.data = bytes)

/-- R133: if what is read back differs from the packet, TRANSACT fails with TransmissionMismatch after a flush, the write and
one read of as many bytes as the packet has, and what that read left stays in RXQ. -/
def Obligations.EchoMismatchConsumesNothingMore : Prop :=
  ∀ address code parameters s, s.bus.isOpen = true → parameters.length ≤ 65532 →
    let p := buildPacketBytes address code parameters
    let x := exchange p s.line
    x.echo ≠ p → Completes (exec (.transact address code parameters) s) fun t =>
      t.err = .failed .transmissionMismatch ∧ t.result = .transacted (.err .transmissionMismatch none) ∧
      t.echo ++ t.rxq = (s.line.getD 1 {}).arrives ++ (s.line.getD 1 {}).heard.getD p ++ (s.line.getD 2 {}).arrives ∧
      t.echo = x.echo ∧
      t.events = s.events ++ [(.s1, .flush), (.s2, .write p), (.s3, .read p.length x.echo)] ∧
      t.line = s.line.drop 3 ∧ t.hdr = s.hdr ∧ t.len = s.len ∧ t.body = s.body ∧ t.errByte = s.errByte

/-- R154: SEND_BLIND writes the packet and returns: no flush, no read, ERR and ERRBYTE not written; the echo stays in RXQ;
over-long parameters are refused (the spec's decision D6). (The latches are read from R29, log 12, unsafe.) -/
def Obligations.SendBlindOnlyWrites : Prop :=
  (∀ address code parameters s, 65532 < parameters.length →
    exec (.sendBlind address code parameters) s = .refused .paramsTooLong) ∧
  ∀ address code parameters s, s.bus.isOpen = true → parameters.length ≤ 65532 →
    exec (.sendBlind address code parameters) s = .next { s with
      op := .sendBlind, id := address, instr := code, params := parameters
      acc := crc16 (packetBody address code parameters)
      txbuf := buildPacketBytes address code parameters
      rxq := s.rxq ++ (s.line.headD {}).arrives ++
        (s.line.headD {}).heard.getD (buildPacketBytes address code parameters)
      line := s.line.tail
      events := s.events ++ [(.s2, .write (buildPacketBytes address code parameters))]
      phase := .idle
      result := .none }

/-- R64, R59, R61, R265: one operation makes no transport event, or one write, or a flush, a write and one to three reads,
in the phases of R146, and never a second write. -/
def Obligations.OneOperationOnePacket : Prop :=
  ∀ i s t, exec i s = .next t → ∃ new, t.events = s.events ++ new ∧ (∀ e ∈ new, e.2.allowedIn e.1 = true) ∧
    new.map (·.1) ∈ [[], [.s2], [.s1, .s2, .s3], [.s1, .s2, .s3, .s4], [.s1, .s2, .s3, .s4, .s6]]

/-- R246, R131: what RXQ held when a transaction begins makes no difference to it. -/
def Obligations.StaleBytesDoNotMatter : Prop :=
  ∀ i s stale, runsTransaction i = true → exec i { s with rxq := stale } = exec i s

/-- R253 (the spec's decision D30): on a bus whose transport has closed, an operation that would use it has no step. That
"no step" is the fault transportClosed, and that it comes after the refusals and only where a transport event is due, is
the model's reading (log 17); so are the packets' clauses (logs 2 and 3, unsafe). Which values SET encodes holds for every
NUM; where a finite one rounds is the model's choice (log 10; D12). -/
def Obligations.ClosedTransportHasNoStep : Prop :=
  ∀ address code parameters reg num len crc data s, s.bus.isOpen = false → parameters.length ≤ 65532 →
    data.length ≤ 65530 →
    exec (.transact address code parameters) s = .fault .transportClosed ∧
    exec (.sendBlind address code parameters) s = .fault .transportClosed ∧
    exec (.ping address) s = .fault .transportClosed ∧
    exec (.pktPing address crc) s = .fault .transportClosed ∧
    exec (.read address reg num) s = .fault .transportClosed ∧
    exec (.pktRead address reg num crc) s = .fault .transportClosed ∧
    exec (.write address reg data) s = .fault .transportClosed ∧
    exec (.pktWrite address len reg data crc) s = .fault .transportClosed ∧
    ∀ place sel f desc value bytes, s.facades[place]? = some f → f.busRef = s.bus.ident →
      exec (.devPing place) s = .fault .transportClosed ∧
      (Selects place sel s f desc → desc.access.canRead = true →
        exec (.get place sel) s = .fault .transportClosed) ∧
      (Selects place sel s f desc → desc.access.canWrite = true → EncodesTo s.num desc.display value bytes →
        bytes.length ≤ desc.size → desc.size ≤ 65530 → exec (.set place sel value) s = .fault .transportClosed)

/-! ## The register data model -/

/-- R167, R168, R169, R171, R174, R176: DECODE of a numeric type completes with the value taken through offset and scale:
itself for `float`, whether it is not zero for `bool`; RAW, COMB, VAL and SPEC are written, and nothing else but OP and
the result port. For `int`, where no fraction is left, the integer itself. It holds for every NUM, and where NUM represents
every intermediate result the value is `(combined - offset) * scale` (R15, D12); where a finite NUM rounds besides is the
model's choice (log 10), and that OP, RAW and SPEC are latched is read from R29 (log 12). -/
def Obligations.DecodeAppliesOffsetThenScale : Prop :=
  ∀ raw d s, d.tag = .float ∨ d.tag = .bool ∨
      (d.tag = .int ∧ (⌊engineering s.num d raw⌋ : Rat) = engineering s.num d raw) →
    Completes (exec (.decode raw (some d)) s) fun t =>
      t = { s with
        op := .decode, raw := raw, spec := some d, comb := fromLe raw, val := engineering s.num d raw
        result := .value (match d.tag with
          | .float => .rat (engineering s.num d raw)
          | .bool => .truth (decide (engineering s.num d raw ≠ 0))
          | _ => .int ⌊engineering s.num d raw⌋) } ∧
      let combined : Rat := fromLe raw
      let offset := d.offset.getD 0
      let scale := d.scale.getD 1
      Represents s.num [combined, combined - offset, (combined - offset) * scale] →
        t.val = (combined - offset) * scale

/-- R170 (with the spec's decision D13, toward zero): DECODE of type `int` completes with the integer part, for every NUM.
Where a finite NUM rounds is the model's choice (log 10; D12, which says that a rounding before a truncation can matter); the
latches are read from R29 (log 12). -/
def Obligations.DecodeIntTruncates : Prop :=
  ∀ raw d s, d.tag = .int → Completes (exec (.decode raw (some d)) s) fun t =>
    let v := engineering s.num d raw
    t.result = .value (.int (if 0 ≤ v then ⌊v⌋ else ⌈v⌉)) ∧
    t = { s with op := .decode, raw := raw, spec := some d, comb := fromLe raw, val := v, result := t.result }

/-- R172: for an integer value of at least 1, DECODE of type `hex` completes with its lowercase base-16 digits, most
significant first, no padding: all digits lowercase, the first not 0, and together they stand for the value. It holds for
every NUM; where a finite one rounds is the model's choice (log 10; D12). The latches are read from R29 (log 12). -/
def Obligations.DecodeHexSpellsTheNumber : Prop :=
  ∀ raw d s (n : Nat), d.tag = .hex → engineering s.num d raw = n → 1 ≤ n →
    Completes (exec (.decode raw (some d)) s) fun t => ∃ text,
      t = { s with
        op := .decode, raw := raw, spec := some d, comb := fromLe raw, val := (n : Rat)
        result := .value (.text text) } ∧
      (∀ c ∈ text, c ∈ lowerDigits) ∧ text.head? ≠ some '0' ∧ numeralValue text = n

/-- R177 (the spec's decision D14): `hex` of 0 is "0", and RAW, COMB, VAL, SPEC, OP and the result port are all that is
written; `hex` of a negative or fractional value is refused. It holds for every NUM; where a finite one rounds is the model's
choice (log 10; D12). The latches are read from R29 (log 12). -/
def Obligations.DecodeHexCorners : Prop :=
  ∀ raw d s, d.tag = .hex →
    (engineering s.num d raw = 0 → Completes (exec (.decode raw (some d)) s) fun t =>
      t = { s with
        op := .decode, raw := raw, spec := some d, comb := fromLe raw, val := 0, result := .value (.text ['0']) }) ∧
    (engineering s.num d raw < 0 → exec (.decode raw (some d)) s = .refused .hexOfNonNatural) ∧
    ((⌊engineering s.num d raw⌋ : Rat) ≠ engineering s.num d raw → exec (.decode raw (some d)) s = .refused .hexOfNonNatural)

/-- R173, R175: with an unknown tag, with type `bytes` and with no display specification DECODE returns the raw bytes
unchanged and no pipeline stage runs. (That OP is latched is read from R29, log 12.) -/
def Obligations.DecodePassesBytesThrough : Prop :=
  ∀ raw spec s, (spec = none ∨ ∃ d, spec = some d ∧ (d.tag = .bytes ∨ ∃ name, d.tag = .unknown name)) →
    exec (.decode raw spec) s = .next { s with
      op := .decode, raw := raw, spec := spec, result := .value (.bytes raw) }

/-- R178: `min` and `max` play no part in DECODE: with other bounds, or none, it answers the same result or the same
refusal. The spec marks that as its own inference, from R165. -/
def Obligations.DecodeDoesNotClamp : Prop :=
  ∀ raw d lo hi s,
    (∀ t, exec (.decode raw (some d)) s = .next t →
      Completes (exec (.decode raw (some { d with min := lo, max := hi })) s) fun u => u.result = t.result) ∧
    ∀ r, exec (.decode raw (some d)) s = .refused r →
      exec (.decode raw (some { d with min := lo, max := hi })) s = .refused r

/-- R183, R184, R188: ENCODE of an integer completes with scale divided out first, then offset added, then the clamp, and
the bytes of a value that comes out whole and not negative stand for it, the last of them never zero, and there are none
for zero. It holds for every NUM, and where NUM represents the operand and every intermediate result VAL is
`value / scale + offset`, clamped (R15, D12); where a finite NUM rounds besides is the model's choice (log 10), and the
latches are read from R29 (log 12). The other operands and raw numbers are in EncodeEmitsMinimalBytes. -/
def Obligations.EncodeInvertsAndClamps : Prop :=
  ∀ (n : Int) d s (m : Nat), d.tag = .int → d.scale ≠ some 0 →
    (∀ lo hi, d.min = some lo → d.max = some hi → lo ≤ hi) → rawNumber s.num d n = m →
    Completes (exec (.encode (.int n) (some d)) s) fun t => ∃ bytes,
      t = { s with op := .encode, spec := some d, val := (m : Rat), result := .bytes bytes } ∧
      fromLe bytes = m ∧ bytes.getLast? ≠ some 0 ∧ (m = 0 ↔ bytes = []) ∧
      let value : Rat := n
      let offset := d.offset.getD 0
      let scale := d.scale.getD 1
      Represents s.num [value, value / scale, value / scale + offset] → t.val = clamped d (value / scale + offset)

/-- R185, R181, R182, R192 (with decisions D13, D18, D19): ENCODE of every operand that denotes a number, under a
specification R191 accepts, completes with the minimal bytes of the truncated raw number, as long as that is not
negative; there are ceil(bit_length / 8) of them. It holds for every NUM; where a finite one rounds is the model's choice
(log 10; D12). The latches are read from R29 (log 12). -/
def Obligations.EncodeEmitsMinimalBytes : Prop :=
  ∀ v d q s, Denotes d.tag v q → d.scale ≠ some 0 → (∀ lo hi, d.min = some lo → d.max = some hi → lo ≤ hi) →
    -1 < rawNumber s.num d q →
    Completes (exec (.encode v (some d)) s) fun t =>
      let n := ⌊rawNumber s.num d q⌋.toNat
      t = { s with op := .encode, spec := some d, val := rawNumber s.num d q, result := .bytes (minimalBytes n) } ∧
      (minimalBytes n).length = (bitLength n + 7) / 8

/-- R186: with type `bytes`, an unknown tag or no display specification ENCODE returns the bytes unchanged. (That OP is
latched is read from R29, log 12.) -/
def Obligations.EncodePassesBytesThrough : Prop :=
  ∀ bytes spec s, (spec = none ∨ ∃ d, spec = some d ∧ (d.tag = .bytes ∨ ∃ name, d.tag = .unknown name)) →
    exec (.encode (.bytes bytes) spec) s = .next { s with op := .encode, spec := spec, result := .bytes bytes }

/-- R187, R191, R181, R182 (the spec's decisions D15 to D19): where ENCODE is refused, and why. A string is refused when it
is no numeral. That an operand of a kind the type tag does not admit (R96) is refused is the model's choice (log 13). It
holds for every NUM; where a finite one rounds the raw number that is tested is the model's choice (log 10; D12). -/
def Obligations.EncodeRefusals : Prop :=
  (∀ v spec s, (spec = none ∨ ∃ d, spec = some d ∧ d.tag.numeric = false) → v.fits spec = false →
    exec (.encode v spec) s = .refused .operandOutOfDomain) ∧
  ∀ v d s, d.tag.numeric = true →
    (d.scale = some 0 → exec (.encode v (some d)) s = .refused .zeroScale) ∧
    (d.scale ≠ some 0 → ∀ lo hi, d.min = some lo → d.max = some hi → hi < lo →
      exec (.encode v (some d)) s = .refused .minAboveMax) ∧
    (d.scale ≠ some 0 → (∀ lo hi, d.min = some lo → d.max = some hi → lo ≤ hi) →
      (v.fits (some d) = false → exec (.encode v (some d)) s = .refused .operandOutOfDomain) ∧
      (∀ q : Rat, d.tag = .int → v = .rat q → (⌊q⌋ : Rat) ≠ q →
        exec (.encode v (some d)) s = .refused .intOperandNotIntegral) ∧
      (∀ t, d.tag = .hex → v = .text t → ¬ IsNumeral t → exec (.encode v (some d)) s = .refused .badHexString) ∧
      (∀ q, Denotes d.tag v q → rawNumber s.num d q ≤ -1 → exec (.encode v (some d)) s = .refused .negativeRaw))

/-- R189, what it says holds for all inputs: for `int` and `hex` without offset, scale and bounds, encoding what was
decoded gives bytes of the same number, and the same bytes exactly when they were minimal already; for `bool` the same
bytes exactly for none and for `[1]`. NUM is to represent the number, 0 and 1 (R15, D12), as the exact rationals do. -/
def Obligations.EncodeInvertsDecode : Prop :=
  ∀ tag raw s, (tag = .int ∨ tag = .hex ∨ tag = .bool) → Represents s.num [(fromLe raw : Rat), 0, 1] → ∃ v bytes,
    (Completes (exec (.decode raw (some { tag := tag })) s) fun t => t.result = .value v) ∧
    (Completes (exec (.encode v (some { tag := tag })) s) fun t => t.result = .bytes bytes) ∧
    (tag ≠ .bool → fromLe bytes = fromLe raw ∧ (bytes = raw ↔ raw.getLast? ≠ some 0)) ∧
    (tag = .bool → (bytes = raw ↔ raw = [] ∨ raw = [1]))

/-! ## The device facade -/

/-- R199, R206, R207: GET on an answered line completes with the decoded data; the READ packet is bound to the facade's
address and the descriptor's address and size; the hooks fire, in registration order, exactly when the error byte is
0x80; RAW, COMB, VAL and SPEC are as DECODE of the data leaves them. The latches after the operation are read from R29
(log 12, unsafe). It holds for every NUM; where a finite one rounds is the model's choice (log 10; D12). -/
def Obligations.GetReadsAndDecodes : Prop :=
  ∀ place sel s f reg errByte data tail late v, Selects place sel s f reg → reg.access.canRead = true →
    s.bus.isOpen = true → errByte &&& 0x7F = 0 → data.length ≤ 65531 →
    LineAnswers (statusReply f.fid errByte data) tail late s.line → decodedValue s.num reg.display data = some v →
    Completes (exec (.get place sel) s) fun t =>
      t.result = .gotValue (some v) ∧
      Succeeded (buildPacketBytes f.fid 0x02
        (le16 (BitVec.ofNat 16 reg.address) ++ le16 (BitVec.ofNat 16 reg.size))) (statusReply f.fid errByte data) errByte
        tail late s t ∧
      t.hwerr = s.hwerr ++ firedHooks place f errByte ∧
      t.notifying = (if errByte = 0x80 then false else s.notifying) ∧ ConfigKept s t ∧
      Latched .get f.fid 0x02 (le16 (BitVec.ofNat 16 reg.address) ++ le16 (BitVec.ofNat 16 reg.size)) t ∧
      t.regAddr.toNat = reg.address ∧ t.rlen.toNat = reg.size ∧ t.data = s.data ∧
      ∃ u, exec (.decode data reg.display) s = .next u ∧ t.raw = u.raw ∧ t.comb = u.comb ∧ t.val = u.val ∧ t.spec = u.spec

/-- R201, R202, R206: SET on an answered line completes with true; the WRITE packet carries ENCODE's bytes, zeros appended
up to the register's size (the spec's decision D21); the hooks fire exactly when the error byte is 0x80; VAL and SPEC are
as ENCODE leaves them. The latches after the operation are read from R29 (log 12, unsafe). It holds for every NUM; where a
finite one rounds is the model's choice (log 10; D12). Registers wider than a packet are in FacadeRefusals. -/
def Obligations.SetEncodesPadsAndWrites : Prop :=
  ∀ place sel s f reg value bytes errByte data tail late, Selects place sel s f reg → reg.access.canWrite = true →
    s.bus.isOpen = true → EncodesTo s.num reg.display value bytes → bytes.length ≤ reg.size → reg.size ≤ 65530 →
    errByte &&& 0x7F = 0 → data.length ≤ 65531 →
    LineAnswers (statusReply f.fid errByte data) tail late s.line →
    Completes (exec (.set place sel value) s) fun t =>
      t.result = .flag true ∧
      Succeeded (buildPacketBytes f.fid 0x03
        (le16 (BitVec.ofNat 16 reg.address) ++ bytes ++ List.replicate (reg.size - bytes.length) 0))
        (statusReply f.fid errByte data) errByte tail late s t ∧
      t.hwerr = s.hwerr ++ firedHooks place f errByte ∧
      t.notifying = (if errByte = 0x80 then false else s.notifying) ∧ ConfigKept s t ∧
      Latched .set f.fid 0x03
        (le16 (BitVec.ofNat 16 reg.address) ++ bytes ++ List.replicate (reg.size - bytes.length) 0) t ∧
      t.regAddr.toNat = reg.address ∧ t.rlen = s.rlen ∧ t.data = bytes ++ List.replicate (reg.size - bytes.length) 0 ∧
      t.raw = s.raw ∧ t.comb = s.comb ∧
      ∃ u, exec (.encode value reg.display) s = .next u ∧ t.val = u.val ∧ t.spec = u.spec

/-- R203: DEV_PING on an answered line completes with true when the reply carries a model number, 0 included, false
otherwise (the spec's decision D10); no hook fires, whatever the error byte. The latches after the operation are read from
R29 (log 12, unsafe). -/
def Obligations.DevPingTellsPresence : Prop :=
  ∀ place s f errByte data tail late, s.facades[place]? = some f → f.busRef = s.bus.ident → s.bus.isOpen = true →
    errByte &&& 0x7F = 0 → data.length ≤ 65531 → LineAnswers (statusReply f.fid errByte data) tail late s.line →
    Completes (exec (.devPing place) s) fun t =>
      t.result = .flag (decide (2 ≤ data.length)) ∧
      Succeeded (buildPacketBytes f.fid 0x01 []) (statusReply f.fid errByte data) errByte tail late s t ∧
      OutsideKept s t ∧ Latched .devPing f.fid 0x01 [] t ∧
      t.regAddr = s.regAddr ∧ t.rlen = s.rlen ∧ t.data = s.data

/-- R229, R199, R201, R203: when the transaction fails, GET completes with absent and a note, SET with false and a note,
DEV_PING with false; no hook fires. The registers, RXQ, the events and the line are those of the failed transaction, the
note standing behind its error in DIAG. The latches are read from R29 (log 12, unsafe); that a length field below 4 is no
status packet and what DIAG is are the spec's decisions D8 and D32. SET's half holds for every NUM; where a finite one rounds
the value it encodes is the model's choice (log 10; D12). -/
def Obligations.FacadeReportsFailure : Prop :=
  ∀ place s f e, s.facades[place]? = some f → f.busRef = s.bus.ident → s.bus.isOpen = true →
    (∀ sel reg, Selects place sel s f reg → reg.access.canRead = true →
      let parameters := le16 (BitVec.ofNat 16 reg.address) ++ le16 (BitVec.ofNat 16 reg.size)
      let p := buildPacketBytes f.fid 0x02 parameters
      verdict p (exchange p s.line) = some e →
      Completes (exec (.get place sel) s) fun t =>
        t.result = .gotValue none ∧ t.err = .failed e ∧ AfterTransaction p s t [.getFailed] ∧ OutsideKept s t ∧
        Latched .get f.fid 0x02 parameters t ∧ t.regAddr.toNat = reg.address ∧ t.rlen.toNat = reg.size ∧
        t.data = s.data) ∧
    (∀ sel reg value bytes, Selects place sel s f reg → reg.access.canWrite = true →
      EncodesTo s.num reg.display value bytes → bytes.length ≤ reg.size → reg.size ≤ 65530 →
      let data := bytes ++ List.replicate (reg.size - bytes.length) 0
      let p := buildPacketBytes f.fid 0x03 (le16 (BitVec.ofNat 16 reg.address) ++ data)
      verdict p (exchange p s.line) = some e →
      Completes (exec (.set place sel value) s) fun t =>
        t.result = .flag false ∧ t.err = .failed e ∧ AfterTransaction p s t [.setFailed] ∧ ConfigKept s t ∧
        t.hwerr = s.hwerr ∧ t.notifying = s.notifying ∧ t.raw = s.raw ∧ t.comb = s.comb ∧
        Latched .set f.fid 0x03 (le16 (BitVec.ofNat 16 reg.address) ++ data) t ∧ t.regAddr.toNat = reg.address ∧
        t.rlen = s.rlen ∧ t.data = data ∧
        ∃ u, exec (.encode value reg.display) s = .next u ∧ t.val = u.val ∧ t.spec = u.spec) ∧
    ∀ p, p = buildPacketBytes f.fid 0x01 [] → verdict p (exchange p s.line) = some e →
      Completes (exec (.devPing place) s) fun t =>
        t.result = .flag false ∧ t.err = .failed e ∧ AfterTransaction p s t ∧ OutsideKept s t ∧
        Latched .devPing f.fid 0x01 [] t ∧ t.regAddr = s.regAddr ∧ t.rlen = s.rlen ∧ t.data = s.data

/-- R42, R204, R202, R197, R119 (the spec's decisions D6, D16, D17, D20 to D22, D27): GET and SET are refused without a model,
for a register that does not exist, without the access right, on a map two names of which normalise alike or a descriptor
of which fails R42 (c) to (e); SET besides where ENCODE is refused (D15 to D19), for an encoding wider than the register, and
for a register wider than a packet. (Which refusal comes first where several apply, and that the whole map is checked, is
read from R199 and R201, log 14. Which value is too wide holds for every NUM; where a finite one rounds is the model's
choice, log 10, D12.) -/
def Obligations.FacadeRefusals : Prop :=
  ∀ place sel value s f, s.facades[place]? = some f → f.busRef = s.bus.ident →
    (f.model = none → exec (.get place sel) s = .refused .unselectableRegister ∧
      exec (.set place sel value) s = .refused .unselectableRegister) ∧
    ∀ m, f.model = some m →
      (NamesCollide s.nameSep m.registerMap → exec (.get place sel) s = .refused .illFormedMap ∧
        exec (.set place sel value) s = .refused .illFormedMap) ∧
      (¬ NamesCollide s.nameSep m.registerMap →
        ((∀ reg, ¬ Chooses s.nameSep m.registerMap sel reg) →
          exec (.get place sel) s = .refused .unselectableRegister ∧
          exec (.set place sel value) s = .refused .unselectableRegister) ∧
        ∀ reg, Chooses s.nameSep m.registerMap sel reg →
          (reg.access = .write → exec (.get place sel) s = .refused .noGetter) ∧
          (reg.access = .read → exec (.set place sel value) s = .refused .noSetter) ∧
          (reg.access ≠ .write → ∀ d ∈ m.registerMap, IllFormed d →
            exec (.get place sel) s = .refused .illFormedMap) ∧
          (reg.access ≠ .read →
            (∀ r, exec (.encode value reg.display) s = .refused r → exec (.set place sel value) s = .refused r) ∧
            ∀ bytes, EncodesTo s.num reg.display value bytes →
              (∀ d ∈ m.registerMap, IllFormed d → exec (.set place sel value) s = .refused .illFormedMap) ∧
              (MapWellFormed s.nameSep m.registerMap → reg.size < bytes.length →
                exec (.set place sel value) s = .refused .valueTooWide) ∧
              (MapWellFormed s.nameSep m.registerMap → bytes.length ≤ reg.size → 65530 < reg.size →
                exec (.set place sel value) s = .refused .paramsTooLong)))

/-- GET, SET and DEV_PING on no facade, or on a facade of another bus, are refused. That is the model's choice (log 15):
the spec calls them "on a facade" (R95). -/
def Obligations.AbsentFacadesAreRefused : Prop :=
  ∀ place sel value s,
    (s.facades[place]? = none → exec (.get place sel) s = .refused .noSuchFacade ∧
      exec (.set place sel value) s = .refused .noSuchFacade ∧ exec (.devPing place) s = .refused .noSuchFacade) ∧
    ∀ f, s.facades[place]? = some f → f.busRef ≠ s.bus.ident → exec (.get place sel) s = .refused .facadeOnOtherBus ∧
      exec (.set place sel value) s = .refused .facadeOnOtherBus ∧ exec (.devPing place) s = .refused .facadeOnOtherBus

/-- R200 (d): where DECODE is refused (the spec's decision D14), GET is refused, after its transaction has succeeded. That the
refusal carries no state is read from R231 (log 25). It holds for every NUM; where a finite one rounds is the model's choice
(log 10; D12). -/
def Obligations.GetIsRefusedWithDecode : Prop :=
  ∀ place sel s f reg errByte data tail late, Selects place sel s f reg → reg.access.canRead = true →
    s.bus.isOpen = true → errByte &&& 0x7F = 0 → data.length ≤ 65531 →
    LineAnswers (statusReply f.fid errByte data) tail late s.line → decodedValue s.num reg.display data = none →
    exec (.get place sel) s = .refused .hexOfNonNatural

/-- R96, R196, R197: in a well-formed map the k-th descriptor is chosen by its index and by every name that differs from its
own only in the case of A to Z, or in U+0020 against NAME_SEP, so GET and SET by such a name and by the index are the same;
a name that normalises as none in the map does chooses nothing, and GET and SET are refused (the spec's decision D22). -/
def Obligations.NameAndIndexSelectTheSame : Prop :=
  ∀ place s f m name value, s.facades[place]? = some f → f.model = some m → MapWellFormed s.nameSep m.registerMap →
    (∀ (k : Nat) (reg : RegDescriptor), m.registerMap[k]? = some reg → SameName s.nameSep name reg.name →
      exec (.get place (.name name)) s = exec (.get place (.index k)) s ∧
      exec (.set place (.name name) value) s = exec (.set place (.index k) value) s) ∧
    (f.busRef = s.bus.ident → (∀ reg ∈ m.registerMap, ¬ SameName s.nameSep name reg.name) →
      exec (.get place (.name name)) s = .refused .unselectableRegister ∧
      exec (.set place (.name name) value) s = .refused .unselectableRegister)

/-- R206: HWERR is raised by GET and SET alone, after a transaction that ended with ERR = OK and ERRBYTE = 0x80. -/
def Obligations.OnlyGetAndSetRaiseHwErr : Prop :=
  ∀ i s t, exec i s = .next t → t.hwerr ≠ s.hwerr →
    ((∃ f r, i = .get f r) ∨ ∃ f r v, i = .set f r v) ∧ t.err = .ok ∧ t.errByte = 0x80

/-! ## The machine as a whole -/

/-- The host operations and packets change no descriptor, no facade, no hook list, no parameter, no bus and no waiting
request (R33, R34). -/
def Obligations.OperationsKeepConfiguration : Prop :=
  ∀ i s t, exec i s = .next t → ConfigKept s t

/-- R33, R34, R248: a step never changes DEVDB, NAME_SEP, NUM, a facade's BUSREF, FID or MODEL, or which transport the bus
drives; a facade never disappears; HOOKS only grows, at its end, but for a reset, which empties it. -/
def Obligations.OnlyHooksChange : Prop :=
  ∀ s t, step s = .next t → t.devdb = s.devdb ∧ t.nameSep = s.nameSep ∧ t.num = s.num ∧
    t.bus.ident = s.bus.ident ∧ t.bus.transport = s.bus.transport ∧
    ∀ (k : Nat) (f : Facade), s.facades[k]? = some f → ∃ f', t.facades[k]? = some f' ∧
      f'.busRef = f.busRef ∧ f'.fid = f.fid ∧ f'.model = f.model ∧
      ((∃ more, f'.hooks = f.hooks ++ more) ∨ f'.hooks = [] ∧ s.port.head? = some .reset)

/-- R248: a reset in idle time empties every HOOKS, clears ERR and ERRBYTE and leaves PHASE idle and the buffers empty
(R40), and is otherwise indistinguishable from no reset: whatever instruction comes next gives the visible outcome it would
have given without it on facades without hooks. (The spec marks that as its own inference, from R20 and R40; that the reset
is a request at the port, and what stays where R40 leaves it unspecified, is the model's choice, logs 16 and 29.) -/
def Obligations.ResetInIdleTime : Prop :=
  ∀ s rest, s.port = .reset :: rest → s.phase = .idle → s.notifying = false → Completes (step s) fun t =>
    t.phase = .idle ∧ t.err = .ok ∧ t.errByte = 0 ∧ t.txbuf = [] ∧ t.echo = [] ∧ t.hdr = [] ∧ t.body = [] ∧
    t.facades = s.facades.map (fun f => { f with hooks := [] }) ∧
    t.bus = s.bus ∧ t.devdb = s.devdb ∧ t.nameSep = s.nameSep ∧ t.num = s.num ∧ t.port = rest ∧ t.notifying = false ∧
    t.rxq = s.rxq ∧ t.line = s.line ∧ t.result = s.result ∧ t.events = s.events ∧ t.hwerr = s.hwerr ∧ t.diag = s.diag ∧
    ∀ i, visible (exec i t) = visible (exec i { s with port := rest, facades := t.facades })

/-- R20: the working registers, PHASE, ERR, ERRBYTE and the result port are dead between operations: whatever they held,
every instruction gives the same visible outcome (result, RXQ, line, transport events, HWERR, DIAG, facades, port), or the
same stop. -/
def Obligations.WorkingRegistersAreDead : Prop :=
  ∀ i s w, visible (exec i (withWorking w s)) = visible (exec i s)

/-- A step runs the decoded instruction: when the request at the head of the port is a command that decodes to `i`, and the
block is idle, the step is `exec i` with that request taken. -/
def Obligations.StepRunsTheDecodedInstruction : Prop :=
  ∀ s bytes rest i, s.port = .command bytes :: rest → s.phase = .idle → s.notifying = false →
    decodeCommand bytes = .ok i → step s = exec i { s with port := rest }

/-- What a step does otherwise: nothing with no request waiting; a request made while PHASE is not IDLE is held, not refused
and not interleaved (R60, R66); a command that decodes to nothing is refused by name, an unassigned selector among them
(R95); a request during a notification is refused (R207); REGISTER_HOOK appends to HOOKS (R205). The port, the idle step
and the notification flag are the model's (logs 1, 18, 21). -/
def Obligations.StepTakesRequests : Prop :=
  (∀ s, s.port = [] → step s = .next s) ∧
  (∀ s, s.phase ≠ .idle → s.notifying = false → step s = .next s) ∧
  (∀ s bytes rest e, s.port = .command bytes :: rest → s.phase = .idle → s.notifying = false →
    decodeCommand bytes = .error e → step s = .refused (.badCommand e)) ∧
  (∀ (selector : Byte) bytes, 0xC ≤ selector.toNat → selector.toNat ≤ 0xF →
    decodeCommand (selector :: bytes) = .error .unassignedSelector) ∧
  (∀ s r rest, s.port = r :: rest → s.notifying = true → step s = .refused .reentrantRequest) ∧
  ∀ s place hook rest f, s.port = .registerHook place hook :: rest → s.phase = .idle → s.notifying = false →
    s.facades[place]? = some f → Completes (step s) fun t =>
      t = { s with port := rest, facades := t.facades } ∧
      t.facades.length = s.facades.length ∧
      t.facades[place]? = some { f with hooks := f.hooks ++ [hook] } ∧
      ∀ k, k ≠ place → t.facades[k]? = s.facades[k]?

/-- R208, R252, R253, R197, R42: a facade is created with the address and the descriptor DEVDB holds for the model number, or
with none if it holds none or no number is given; its HOOKS are empty; it stands last. If that descriptor's map is not well
formed the creation is refused. The closing of the transport is all that request does. (That these are requests at the
port, and that they do not look at whether the transport is still open, is the model's choice, logs 16 and 28.) -/
def Obligations.HostCreatesAndCloses : Prop :=
  (∀ s rest fid number model, s.port = .createFacade fid number :: rest → s.phase = .idle → s.notifying = false →
    (model = none ∧ (number = none ∨ ∃ n, number = some n ∧ ∀ m ∈ s.devdb, m.number ≠ n) ∨
      ∃ n before m after, number = some n ∧ s.devdb = before ++ m :: after ∧ (∀ x ∈ before, x.number ≠ n) ∧
        m.number = n ∧ model = some m) →
    ((∀ m, model = some m → MapWellFormed s.nameSep m.registerMap) → step s = .next { s with
      port := rest
      facades := s.facades ++ [{ busRef := s.bus.ident, fid := fid, model := model, hooks := [] }] }) ∧
    ∀ m, model = some m → (NamesCollide s.nameSep m.registerMap ∨ ∃ d ∈ m.registerMap, IllFormed d) →
      step s = .refused .illFormedMap) ∧
  ∀ s rest, s.port = .closeTransport :: rest → s.phase = .idle → s.notifying = false →
    Completes (step s) fun t => t.bus.isOpen = false ∧ t = { s with port := rest, bus := t.bus } ∧
      t.bus.ident = s.bus.ident ∧ t.bus.transport = s.bus.transport

/-- Every step keeps the invariant, from every state that meets it: operations, packets, and the host's other actions. -/
def Obligations.StepKeepsInvariant : Prop := ∀ s t : State, s.Inv → step s = .next t → t.Inv

/-- Along every run from a state that meets the invariant, the block is idle and quiet between steps: no request is held,
and none is refused as re-entrant. It is a statement about the model, in which an operation is one step (log 11) and a
subscriber makes no request inside it (log 18); R66 and R207 say what happens to such requests, and StepTakesRequests says
that the model does so. -/
def Obligations.RunsAreNeverBusy : Prop := ∀ s : State, s.Inv → NeverBusy s

/-! ## Encodings -/

/-- Decoding an encoded well-formed instruction gives it back, with every operand, and leaves what follows it. (The operand
coding of host operations is the model's, log 1.) -/
def Obligations.DecodeInvertsEncode : Prop :=
  ∀ i rest, WellFormed i → decode (encode i ++ rest) = .ok (i, rest)

/-- The other way: what decodes to an instruction is that instruction's encoding, so every word has one meaning. -/
def Obligations.EncodeInvertsDecoding : Prop :=
  ∀ bytes i rest, decode bytes = .ok (i, rest) → encode i ++ rest = bytes

/-- Words of the spec, written out: the source's two packets and the vectors' read request and ping reply decode to the
instructions they stand for. -/
def Obligations.SpecWordsDecode : Prop :=
  decodeCommand [0xFF, 0xFF, 0xFD, 0x00, 0x04, 0x03, 0x00, 0x01, 0x19, 0x0A] = .ok (.pktPing 0x04 0x0A19) ∧
  decodeCommand [0xFF, 0xFF, 0xFD, 0x00, 0x01, 0x05, 0x00, 0x03, 0x01, 0x00, 0x68, 0xA3] =
    .ok (.pktWrite 0x01 5 0x0001 [] 0xA368) ∧
  decodeCommand [0xFF, 0xFF, 0xFD, 0x00, 0x01, 0x07, 0x00, 0x02, 0x10, 0x00, 0x02, 0x00, 0x27, 0x11] =
    .ok (.pktRead 0x01 0x0010 0x0002 0x1127) ∧
  decodeCommand [0xFF, 0xFF, 0xFD, 0x00, 0x05, 0x07, 0x00, 0x55, 0x00, 0x24, 0x04, 0x26, 0xD5, 0x1F] =
    .ok (.pktStatus 0x05 7 0x00 [0x24, 0x04, 0x26] 0x1FD5) ∧
  decodeCommand [0x03, 0x05] = .ok (.ping 0x05)

/-- R88, R89: a packet whose instruction byte is none of the four codes is no instruction, whatever its other bytes. -/
def Obligations.UndefinedPacketCodesAreRefused : Prop :=
  ∀ (id lenL lenH code : Byte) rest, code ≠ 0x01 → code ≠ 0x02 → code ≠ 0x03 → code ≠ 0x55 →
    decodeCommand (0xFF :: 0xFF :: 0xFD :: 0x00 :: id :: lenL :: lenH :: code :: rest) = .error .noSuchPacket
end

