-- ==== Sys2Proof/Laws/Bytes.lean ====
section
/-! SUPPORT. Byte order and minimal representation: 16-bit fields round-trip, numbers round-trip through their minimal
bytes, and the shape of a built packet. -/

namespace Sys2Proof.Machine

@[simp] theorem word16_toNat (lo hi : Byte) : (word16 lo hi).toNat = lo.toNat + 256 * hi.toNat := by
  have h := lo.isLt
  simp only [word16, BitVec.toNat_append]
  rw [← Nat.shiftLeft_add_eq_or_of_lt h, Nat.shiftLeft_eq]
  omega

theorem le16_bytes (v : Word) : word16 (v.extractLsb' 0 8) (v.extractLsb' 8 8) = v := by
  apply BitVec.eq_of_toNat_eq
  have := v.isLt
  simp only [word16_toNat, BitVec.extractLsb'_toNat, Nat.shiftRight_eq_div_pow]
  omega

theorem word16_bytes (lo hi : Byte) : le16 (word16 lo hi) = [lo, hi] := by
  have h1 := lo.isLt
  have h2 := hi.isLt
  simp only [le16, List.cons.injEq, and_true]
  constructor <;> apply BitVec.eq_of_toNat_eq <;>
    simp only [BitVec.extractLsb'_toNat, word16_toNat, Nat.shiftRight_eq_div_pow] <;> omega

@[simp] theorem le16_length (v : Word) : (le16 v).length = 2 := rfl

/-! ### Minimal bytes -/

theorem minLeUpTo_fuel (n : Nat) : ∀ k m, n ≤ k → n ≤ m → minLeUpTo k n = minLeUpTo m n := by
  induction n using Nat.strongRecOn with
  | ind n ih =>
    intro k m hk hm
    cases n with
    | zero => cases k <;> cases m <;> simp [minLeUpTo]
    | succ n =>
      obtain ⟨k, rfl⟩ := Nat.exists_eq_succ_of_ne_zero (by omega : k ≠ 0)
      obtain ⟨m, rfl⟩ := Nat.exists_eq_succ_of_ne_zero (by omega : m ≠ 0)
      simp only [minLeUpTo]
      rw [ih ((n + 1) / 256) (by omega) k m (by omega) (by omega)]

@[simp] theorem minLe_zero : minLe 0 = [] := rfl

/-- The defining equation of `min_le`. -/
theorem minLe_pos {n : Nat} (h : n ≠ 0) : minLe n = BitVec.ofNat 8 n :: minLe (n / 256) := by
  obtain ⟨k, rfl⟩ := Nat.exists_eq_succ_of_ne_zero h
  rw [minLe, minLeUpTo, if_neg h, minLe, minLeUpTo_fuel ((k + 1) / 256) k ((k + 1) / 256) (by omega) le_rfl]

theorem fromLe_minLe (n : Nat) : fromLe (minLe n) = n := by
  induction n using Nat.strongRecOn with
  | ind n ih =>
    by_cases h : n = 0
    · subst h; rfl
    · rw [minLe_pos h, fromLe, ih (n / 256) (by omega)]
      simp
      omega

theorem minLe_getLast (n : Nat) : (minLe n).getLast? ≠ some 0 := by
  induction n using Nat.strongRecOn with
  | ind n ih =>
    by_cases h : n = 0
    · subst h; simp
    · rw [minLe_pos h]
      by_cases h' : n / 256 = 0
      · rw [h']
        simp only [minLe_zero, List.getLast?_singleton, ne_eq, Option.some.injEq]
        intro hc
        have := congrArg BitVec.toNat hc
        simp at this
        omega
      · rw [minLe_pos h', List.getLast?_cons_cons, ← minLe_pos h']
        exact ih _ (by omega)

/-- A byte sequence whose last byte is not zero is the minimal one of its number. -/
theorem minLe_fromLe (bs : List Byte) (h : bs.getLast? ≠ some 0) : minLe (fromLe bs) = bs := by
  induction bs with
  | nil => rfl
  | cons b bs ih =>
    have hb := b.isLt
    have hne : fromLe (b :: bs) ≠ 0 := by
      cases bs with
      | nil =>
        intro h0
        apply h
        simp only [fromLe, Nat.mul_zero, Nat.add_zero] at h0
        simp only [List.getLast?_singleton, Option.some.injEq]
        exact BitVec.eq_of_toNat_eq (by simpa using h0)
      | cons c cs =>
        have := ih (by simpa using h)
        intro h0
        simp only [fromLe] at h0
        have h1 : fromLe (c :: cs) = 0 := by simp only [fromLe]; omega
        rw [h1] at this
        simp at this
    rw [minLe_pos hne]
    have h1 : fromLe (b :: bs) / 256 = fromLe bs := by simp only [fromLe]; omega
    have h2 : BitVec.ofNat 8 (fromLe (b :: bs)) = b := by
      apply BitVec.eq_of_toNat_eq
      simp only [fromLe, BitVec.toNat_ofNat]
      omega
    rw [h1, h2]
    cases bs with
    | nil => rfl
    | cons c cs => rw [ih (by simpa using h)]

/-! ### Packets -/

theorem packetBody_length (a c : Byte) (p : List Byte) : (packetBody a c p).length = p.length + 8 := by
  simp [packetBody, Config.frameMarker]; omega

theorem buildPacketBytes_length (a c : Byte) (p : List Byte) : (buildPacketBytes a c p).length = p.length + 10 := by
  simp [buildPacketBytes, packetBody_length]

theorem dropLast2_build (a c : Byte) (p : List Byte) : dropLast2 (buildPacketBytes a c p) = packetBody a c p := by
  simp [dropLast2, buildPacketBytes]

theorem trailer_append_le16 (b : List Byte) (v : Word) : trailer (b ++ le16 v) = v := by
  have h0 : (b ++ le16 v).length - 2 = b.length := by simp
  have h1 : (b ++ le16 v).length - 1 = b.length + 1 := by simp
  rw [trailer, h0, h1]
  simp [le16, le16_bytes]

/-- The checksum invariant of built packets, as the checker sees it. -/
theorem crcOk_build (a c : Byte) (p : List Byte) : crcOk (buildPacketBytes a c p) = true := by
  rw [crcOk, dropLast2_build, buildPacketBytes, trailer_append_le16, beq_self_eq_true]

/-- A built packet, byte by byte. -/
theorem buildPacketBytes_eq (a c : Byte) (p : List Byte) :
    buildPacketBytes a c p = 0xFF :: 0xFF :: 0xFD :: 0x00 :: a ::
      (BitVec.ofNat 16 (p.length + 3)).extractLsb' 0 8 :: (BitVec.ofNat 16 (p.length + 3)).extractLsb' 8 8 :: c ::
        (p ++ le16 (crc16 (packetBody a c p))) := by
  simp [buildPacketBytes, packetBody, Config.frameMarker, le16]

end Sys2Proof.Machine
end

