-- ==== Sys2Proof/Laws/Pipeline.lean ====
section
/-! SUPPORT. The pipeline's arithmetic in the library's terms: one step of the CRC over numbers, truncation as floor and
ceiling, the hexadecimal string and the minimal bytes as digits, the stages composed. -/

namespace Sys2Proof.Machine

/-- One byte of the CRC, over numbers: R105's loop body with its `mod 65536`. -/
theorem crcStep_toNat (acc : Word) (b : Byte) : (crcStep acc b).toNat =
    ((acc.toNat <<< 8) ^^^ (crcTable.getD ((acc.toNat >>> 8) ^^^ b.toNat) 0).toNat) % 65536 := by
  have hi : (crcIndex acc b).toNat = (acc.toNat >>> 8) ^^^ b.toNat := by
    have := acc.isLt
    rw [crcIndex, BitVec.toNat_xor]
    congr 1
    simp only [BitVec.extractLsb'_toNat, Nat.shiftRight_eq_div_pow]
    omega
  rw [crcStep, crcEntry, hi, BitVec.toNat_xor, BitVec.toNat_shiftLeft]
  generalize crcTable.getD ((acc.toNat >>> 8) ^^^ b.toNat) 0 = w
  conv_lhs => rw [← Nat.mod_eq_of_lt w.isLt]
  rw [show (65536 : Nat) = 2 ^ 16 from rfl, Nat.xor_mod_two_pow]

/-- Truncation toward zero is floor or ceiling. -/
theorem trunc_eq (v : Rat) : trunc v = if 0 ≤ v then ⌊v⌋ else ⌈v⌉ := by
  unfold trunc
  by_cases h : 0 ≤ v
  · rw [if_pos h, Int.tdiv_eq_ediv_of_nonneg (Rat.num_nonneg.2 h)]
    exact Rat.floor_def'.symm
  · have hn : v.num < 0 := by
      have := mt Rat.num_nonneg.1 h
      omega
    have hc : ⌈v⌉ = -⌊-v⌋ := by rw [Int.floor_neg, neg_neg]
    rw [if_neg h, show v.num = -(-v.num) by ring, Int.neg_tdiv, Int.tdiv_eq_ediv_of_nonneg (by omega), hc, Rat.floor_def']
    simp

theorem hexDigit_eq : ∀ n < 16, hexDigit n = Nat.digitChar n := by decide

theorem hexDigitsUpTo_eq (n : Nat) : ∀ f g acc, n ≠ 0 → n ≤ f → n < g →
    Nat.toDigitsCore 16 g n acc = (hexDigitsUpTo f n).reverse ++ acc := by
  induction n using Nat.strongRecOn with
  | ind n ih =>
    intro f g acc hn hf hg
    obtain ⟨f, rfl⟩ := Nat.exists_eq_succ_of_ne_zero (show f ≠ 0 by omega)
    obtain ⟨g, rfl⟩ := Nat.exists_eq_succ_of_ne_zero (show g ≠ 0 by omega)
    rw [Nat.toDigitsCore, hexDigitsUpTo, if_neg hn]
    simp only [List.reverse_cons, List.append_assoc, List.singleton_append,
      hexDigit_eq _ (Nat.mod_lt n (by norm_num : 16 > 0))]
    by_cases h : n / 16 = 0
    · rw [if_pos h, h]
      cases f <;> simp [hexDigitsUpTo]
    · rw [if_neg h, ih _ (by omega) f g _ h (by omega) (by omega)]

/-- `hexstr` is the library's base-16 spelling. -/
theorem hexText_eq (n : Nat) : hexText n = Nat.toDigits 16 n := by
  unfold hexText
  split
  · next h => subst h; rfl
  · next h => rw [Nat.toDigits, hexDigitsUpTo_eq n n (n + 1) [] h le_rfl (by omega), List.append_nil]

/-- `min_le` is the library's base-256 digits. -/
theorem minLe_eq_digits (n : Nat) : minLe n = (Nat.digits 256 n).map (BitVec.ofNat 8) := by
  induction n using Nat.strongRecOn with
  | ind n ih =>
    by_cases h : n = 0
    · subst h; rfl
    · rw [minLe_pos h, ih _ (by omega), Nat.digits_def' (b := 256) (n := n) (by norm_num) (by omega), List.map_cons]
      congr 1
      apply BitVec.eq_of_toNat_eq
      simp

/-- Exact NUM rounds nothing. -/
@[simp] theorem roundIn_exact (q : Rat) : roundIn .exact q = q := rfl

theorem ds2Offset_eq (num : NumDomain) (d : DisplaySpec) (v : Rat) :
    ds2Offset num d v = d.offset.elim v fun o => roundIn num (v - o) := by
  unfold ds2Offset; cases d.offset <;> rfl

theorem ds3Scale_eq (num : NumDomain) (d : DisplaySpec) (v : Rat) :
    ds3Scale num d v = d.scale.elim v fun k => roundIn num (v * k) := by
  unfold ds3Scale; cases d.scale <;> rfl

theorem es2Scale_eq (num : NumDomain) (d : DisplaySpec) (v : Rat) :
    es2Scale num d v = d.scale.elim v fun k => roundIn num (v / k) := by
  unfold es2Scale; cases d.scale <;> rfl

theorem es3Offset_eq (num : NumDomain) (d : DisplaySpec) (v : Rat) :
    es3Offset num d v = d.offset.elim v fun o => roundIn num (v + o) := by
  unfold es3Offset; cases d.offset <;> rfl

/-- DS2 and DS3 together, where NUM represents every intermediate result. -/
theorem decodeStages_eq {num : NumDomain} {d : DisplaySpec} {n : Nat} (h0 : roundIn num n = n)
    (h1 : roundIn num (n - d.offset.getD 0) = n - d.offset.getD 0)
    (h2 : roundIn num ((n - d.offset.getD 0) * d.scale.getD 1) = (n - d.offset.getD 0) * d.scale.getD 1) :
    ds3Scale num d (ds2Offset num d (roundIn num (n : Rat))) = ((n : Rat) - d.offset.getD 0) * d.scale.getD 1 := by
  rw [ds3Scale_eq, ds2Offset_eq, h0]
  cases ho : d.offset <;> cases hs : d.scale <;> simp_all

/-- ES2 and ES3 together, where NUM represents every intermediate result. -/
theorem encodeStages_eq {num : NumDomain} {d : DisplaySpec} {q : Rat} (h0 : roundIn num q = q)
    (h1 : roundIn num (q / d.scale.getD 1) = q / d.scale.getD 1)
    (h2 : roundIn num (q / d.scale.getD 1 + d.offset.getD 0) = q / d.scale.getD 1 + d.offset.getD 0) :
    es3Offset num d (es2Scale num d (roundIn num q)) = q / d.scale.getD 1 + d.offset.getD 0 := by
  rw [es3Offset_eq, es2Scale_eq, h0]
  cases ho : d.offset <;> cases hs : d.scale <;> simp_all

theorem clampMin_eq (d : DisplaySpec) (v : Rat) : clampMin d v = d.min.elim v (max v) := by
  unfold clampMin
  cases d.min with
  | none => rfl
  | some lo =>
    simp only [Option.elim]
    split
    · next h => exact (max_eq_right h.le).symm
    · next h => exact (max_eq_left (not_lt.1 h)).symm

theorem clampMax_eq (d : DisplaySpec) (v : Rat) : clampMax d v = d.max.elim v (min v) := by
  unfold clampMax
  cases d.max with
  | none => rfl
  | some hi =>
    simp only [Option.elim]
    split
    · next h => exact (min_eq_right h.le).symm
    · next h => exact (min_eq_left (not_lt.1 h)).symm

/-- ES0's checks pass on a specification R191 accepts. -/
theorem es0Check_ok {d : DisplaySpec} (hs : d.scale ≠ some 0)
    (hb : ∀ lo hi, d.min = some lo → d.max = some hi → lo ≤ hi) : es0Check d = .ok () := by
  have h1 : d.scaleOk = true := by simpa [DisplaySpec.scaleOk] using hs
  have h2 : d.boundsOk = true := by
    unfold DisplaySpec.boundsOk
    split
    · next hlo hhi => simpa using hb _ _ hlo hhi
    · rfl
  rw [es0Check, if_pos h1, if_pos h2]

end Sys2Proof.Machine
end

