-- ==== Sys2Proof/Laws/Claims.lean ====
section
/-! SUPPORT. The rules as the claims write them a second time, in the model's terms: what an evaluation of the model
settles, it settles of the claim. -/

namespace Sys2Proof.Claims

open Sys2Proof.Machine

/-! ### Numbers -/

theorem rounded_eq (num : NumDomain) (q : Rat) : rounded num q = roundIn num q := by cases num <;> rfl

/-- The exact rationals represent every number. -/
theorem represents_exact (qs : List Rat) : Represents .exact qs := fun _ _ => rfl

theorem engineering_eq (num : NumDomain) (d : DisplaySpec) (raw : List Byte) :
    ds3Scale num d (ds2Offset num d (roundIn num (fromLe raw : Rat))) = engineering num d raw := by
  simp only [ds3Scale_eq, ds2Offset_eq, engineering, rounded_eq]

theorem rawNumber_eq (num : NumDomain) (d : DisplaySpec) (q : Rat) :
    es4Clamp d (es3Offset num d (es2Scale num d (roundIn num q))) = rawNumber num d q := by
  simp only [es4Clamp, clampMax_eq, clampMin_eq, es3Offset_eq, es2Scale_eq, rawNumber, clamped, rounded_eq]

/-! ### Names -/

/-- The letters of the two alphabets are those 32 apart from U+0041 to U+005A. -/
theorem lowerLetter_of_letter {k : Nat} {up low : Char} (hu : upperLetters[k]? = some up)
    (hl : lowerLetters[k]? = some low) : up ≠ ' ' ∧ lowerLetter up = low := by
  have all : ∀ p ∈ upperLetters.zip lowerLetters, p.1 ≠ ' ' ∧ lowerLetter p.1 = p.2 := by decide
  exact all (up, low) (List.mem_iff_getElem?.2 ⟨k, List.getElem?_zip_eq_some.2 ⟨hu, hl⟩⟩)

theorem lowerLetter_of_other {c : Char} (h : c ∉ upperLetters) : lowerLetter c = c := by
  refine if_neg fun ⟨h1, h2⟩ => h ?_
  have hn : 65 ≤ c.toNat ∧ c.toNat ≤ 90 := ⟨h1, h2⟩
  have all : ∀ n < 91, 65 ≤ n → Char.ofNat n ∈ upperLetters := by decide
  rw [← Char.ofNat_toNat c]
  exact all _ (by omega) hn.1

/-- The claims' rule for names is the model's function. -/
theorem normalisesTo_iff {sep name t : Text} : NormalisesTo sep name t ↔ t = normalise sep name := by
  constructor
  · intro h
    induction h with
    | nil => rfl
    | space _ ih => rw [ih]; rfl
    | letter hu hl _ ih =>
      obtain ⟨hs, he⟩ := lowerLetter_of_letter hu hl
      rw [ih, normalise, normalise, List.flatMap_cons, if_neg hs, he]; rfl
    | other hs hu _ ih =>
      rw [ih, normalise, normalise, List.flatMap_cons, if_neg hs, lowerLetter_of_other hu]; rfl
  · rintro rfl
    induction name with
    | nil => exact .nil
    | cons c cs ih =>
      rw [normalise, List.flatMap_cons]
      by_cases hs : c = ' '
      · subst hs; exact .space ih
      · rw [if_neg hs]
        by_cases hu : c ∈ upperLetters
        · obtain ⟨k, hk⟩ := List.mem_iff_getElem?.1 hu
          have hl : k < lowerLetters.length := (List.getElem?_eq_some_iff.1 hk).1
          have hl := List.getElem?_eq_getElem hl
          rw [(lowerLetter_of_letter hk hl).2]
          exact .letter hk hl ih
        · rw [lowerLetter_of_other hu]; exact .other hs hu ih

theorem sameName_iff {sep a b : Text} : SameName sep a b ↔ normalise sep a = normalise sep b := by
  simp [SameName, normalisesTo_iff]

/-! ### Maps -/

theorem namesCollide_iff {sep : Text} {map : List RegDescriptor} :
    NamesCollide sep map ↔ namesUnique sep map = false := by
  have nodup : (map.map fun d => normalise sep d.name).Nodup → (map.map (·.name)).Nodup := fun h =>
    List.Nodup.of_map (f := normalise sep) (by simpa [List.map_map, Function.comp_def] using h)
  have : namesUnique sep map = true ↔ (map.map fun d => normalise sep d.name).Nodup := by
    simpa [namesUnique] using nodup
  rw [← Bool.not_eq_true, this, List.Nodup, List.pairwise_iff_getElem]
  simp only [NamesCollide, sameName_iff, List.getElem?_eq_some_iff, List.length_map, List.getElem_map, not_forall]
  constructor
  · rintro ⟨i, j, a, b, hij, ⟨hi, rfl⟩, ⟨hj, rfl⟩, h⟩
    exact ⟨i, j, hi, hj, hij, not_not.2 h⟩
  · rintro ⟨i, j, hi, hj, hij, h⟩
    exact ⟨i, j, _, _, hij, ⟨hi, rfl⟩, ⟨hj, rfl⟩, not_not.1 h⟩

theorem boundsOk_false {p : DisplaySpec} :
    p.boundsOk = false ↔ ∃ lo hi, p.min = some lo ∧ p.max = some hi ∧ hi < lo := by
  unfold DisplaySpec.boundsOk
  cases p.min <;> cases p.max <;> simp

theorem canWrite_iff {a : Access} : a.canWrite = true ↔ a ≠ .read := by cases a <;> decide

theorem illFormed_iff {d : RegDescriptor} : IllFormed d ↔ d.wf = false := by
  simp only [IllFormed, RegDescriptor.wf, Bool.and_eq_false_iff, decide_eq_false_iff_not, not_le, Nat.lt_one_iff, or_assoc]
  cases d.display with
  | none => simp
  | some p =>
    simp only [Option.all_some, Bool.and_eq_false_iff, boundsOk_false, Option.some.injEq, exists_eq_left']
    simp [DisplaySpec.scaleOk, canWrite_iff, and_comm]

theorem mapWellFormed_iff {sep : Text} {map : List RegDescriptor} : MapWellFormed sep map ↔ mapWf sep map = true := by
  simp [MapWellFormed, mapWf, namesCollide_iff, illFormed_iff]

/-- Where no two names collide the operand's descriptor is the one the model's look-up finds. -/
theorem chooses_iff {sep : Text} {map : List RegDescriptor} (h : ¬ NamesCollide sep map) {sel : RegSel}
    {reg : RegDescriptor} : Chooses sep map sel reg ↔ selectReg sep map sel = some reg := by
  cases sel with
  | index k => exact ⟨fun | .index h => h, .index⟩
  | name n =>
    rw [selectReg]
    constructor
    · rintro (_ | ⟨hm, hs⟩)
      cases hf : map.find? fun d => normalise sep d.name == normalise sep n with
      | none => simpa [sameName_iff.1 hs] using List.find?_eq_none.1 hf reg hm
      | some r =>
        have hr := List.find?_some hf
        obtain ⟨i, hi⟩ := List.mem_iff_getElem?.1 hm
        obtain ⟨j, hj⟩ := List.mem_iff_getElem?.1 (List.mem_of_find?_eq_some hf)
        have same : SameName sep r.name reg.name := sameName_iff.2 ((beq_iff_eq.1 hr).trans (sameName_iff.1 hs))
        obtain hij | rfl | hij := lt_trichotomy i j
        · exact absurd ⟨i, j, _, _, hij, hi, hj, sameName_iff.2 (sameName_iff.1 same).symm⟩ h
        · rw [← hi, ← hj]
        · exact absurd ⟨j, i, _, _, hij, hj, hi, same⟩ h
    · intro hf
      have hr := List.find?_some hf
      exact .name (List.mem_of_find?_eq_some hf) (sameName_iff.2 (beq_iff_eq.1 hr).symm)

end Sys2Proof.Claims
end

