-- ==== Sys2Proof/Laws/Coding.lean ====
section
/-! SUPPORT. The operand coding of commands: what each writer puts down its reader takes up again, and what a reader takes
up its writer would have put down. -/

namespace Sys2Proof

open Machine

/-- The reader takes up what the writer puts down, and leaves the rest. -/
def Reads {α : Type} (rd : Reader α) (put : α → List Byte) : Prop := ∀ a r, rd (put a ++ r) = .ok (a, r)

/-- What the reader takes up, the writer would have put down. -/
def Spells {α : Type} (rd : Reader α) (put : α → List Byte) : Prop :=
  ∀ bs a r, rd bs = .ok (a, r) → put a ++ r = bs

/-- Two reads in a row that succeed. -/
theorem read_bind {α β : Type} {x : Except DecodeError α} {f : α → Except DecodeError β} {b : β}
    (h : (x >>= f) = .ok b) : ∃ a, x = .ok a ∧ f a = .ok b := by
  cases x with
  | error e => cases h
  | ok a => exact ⟨a, rfl, h⟩

/-- A read that succeeds is passed over. -/
theorem read_ok {α β : Type} {x : Except DecodeError α} {f : α → Except DecodeError β} {a : α} (h : x = .ok a) :
    (x >>= f) = f a := by rw [h]; rfl

theorem reads_byte : Reads readByte fun b => [b] := fun _ _ => rfl

theorem readByte_cons (b : Byte) (r : List Byte) : readByte (b :: r) = .ok (b, r) := rfl

theorem spells_byte : Spells readByte fun b => [b] := by
  rintro (_ | ⟨b, bs⟩) a r h
  · cases h
  · cases h; rfl

theorem reads_word : Reads readWord le16 := by
  intro v r
  simp only [le16, List.cons_append, List.nil_append, readWord, le16_bytes]

theorem spells_word : Spells readWord le16 := by
  rintro (_ | ⟨lo, _ | ⟨hi, bs⟩⟩) a r h
  · cases h
  · cases h
  · cases h; rw [word16_bytes]; rfl

theorem reads_bytes : Reads readBytes putBytes := by
  intro bs r
  induction bs with
  | nil => cases r <;> simp [putBytes, readBytes]
  | cons b bs ih => simp [putBytes, readBytes, ih]

theorem spells_bytes_upTo (n : Nat) : ∀ bs a r, bs.length ≤ n → readBytes bs = .ok (a, r) → putBytes a ++ r = bs := by
  induction n with
  | zero =>
    intro bs a r hn h
    rw [List.length_eq_zero_iff.1 (Nat.le_zero.1 hn)] at h
    cases h
  | succ n ih =>
    intro bs a r hn h
    rcases bs with _ | ⟨m, _ | ⟨b, bs⟩⟩
    · cases h
    · simp only [readBytes] at h
      split at h
      · next hm => cases h; rw [hm]; rfl
      · cases h
    · simp only [readBytes] at h
      split at h
      · next hm => cases h; rw [hm]; rfl
      · split at h
        · next hm =>
          split at h
          · next ds r' hr =>
            cases h
            rw [hm, putBytes, List.cons_append, List.cons_append, ih _ _ _ (by simpa using Nat.le_of_succ_le hn) hr]
          · cases h
        · cases h

theorem spells_bytes : Spells readBytes putBytes := fun bs a r => spells_bytes_upTo bs.length bs a r le_rfl

theorem reads_nat : Reads readNat putNat := by
  intro n r
  rw [readNat, putNat, reads_bytes]
  simp [fromLe_minLe]

theorem spells_nat : Spells readNat putNat := by
  intro bs n r h
  rw [readNat] at h
  split at h
  · cases h
  · next ds r' hd =>
    split at h <;> cases h
    next hc => rw [putNat, hc]; exact spells_bytes _ _ _ hd

theorem reads_mark : Reads readMark putMark := by
  intro b r; cases b <;> rfl

theorem spells_mark : Spells readMark putMark := by
  rintro (_ | ⟨m, bs⟩) b r h
  · cases h
  · simp only [readMark] at h
    split at h
    · next hm => cases h; rw [hm]; rfl
    · split at h <;> cases h
      next hm => rw [hm]; rfl

theorem reads_int : Reads readInt putInt := by
  intro n r
  rw [readInt, putInt, List.append_assoc, read_ok (reads_mark _ _)]
  simp only
  rw [read_ok (reads_nat _ _)]
  simp only
  by_cases h : n < 0
  · rw [if_pos (by simpa using h), if_neg (by omega)]
    simp only [Except.ok.injEq, Prod.mk.injEq, and_true]; omega
  · rw [if_neg (by simpa using h)]
    simp only [Except.ok.injEq, Prod.mk.injEq, and_true]; omega

theorem spells_int : Spells readInt putInt := by
  intro bs n r h
  obtain ⟨⟨neg, r1⟩, h1, h2⟩ := read_bind h
  obtain ⟨⟨k, r2⟩, h3, h4⟩ := read_bind h2
  rw [← spells_mark _ _ _ h1, ← spells_nat _ _ _ h3, putInt]
  clear h h2
  cases neg with
  | true =>
    simp only [if_true] at h4
    split at h4
    · cases h4
    · next hk => cases h4; simp [Nat.pos_of_ne_zero hk]
  | false => cases h4; simp [show ¬ ((k : Int) < 0) by omega]

theorem reads_rat : Reads readRat putRat := by
  intro q r
  have hd : q.den - 1 + 1 = q.den := Nat.sub_add_cancel q.den_pos
  rw [readRat, putRat, List.append_assoc, read_ok (reads_int _ _)]
  simp only
  rw [read_ok (reads_nat _ _)]
  simp only [hd, Rat.mkRat_self, and_self, if_true]

theorem spells_rat : Spells readRat putRat := by
  intro bs q r h
  obtain ⟨⟨num, r1⟩, h1, h2⟩ := read_bind h
  obtain ⟨⟨d, r2⟩, h3, h4⟩ := read_bind h2
  clear h h2
  simp only at h4
  split at h4
  · next hq =>
    cases h4
    rw [putRat, hq.1, hq.2, Nat.add_sub_cancel, List.append_assoc, spells_nat _ _ _ h3, spells_int _ _ _ h1]
  · cases h4

theorem char_bytes (c : Char) : fromLe (putChar c) = c.toNat := by
  have h : c.toNat < 16777216 := by
    have := c.valid
    have h : c.toNat.isValidChar := this
    rcases h with h | h <;> omega
  simp only [putChar, fromLe, BitVec.toNat_ofNat]
  omega

theorem textOfBytes_put (t : Text) : textOfBytes (t.flatMap putChar) = .ok t := by
  induction t with
  | nil => rfl
  | cons c t ih =>
    have hc := char_bytes c
    have hv : c.toNat.isValidChar := c.valid
    rw [List.flatMap_cons, putChar, List.cons_append, List.cons_append, List.cons_append, List.nil_append, textOfBytes]
    simp only [show fromLe [BitVec.ofNat 8 c.toNat, BitVec.ofNat 8 (c.toNat / 256), BitVec.ofNat 8 (c.toNat / 65536)] = c.toNat from hc, ih, if_pos hv, Char.ofNat_toNat]


theorem put_textOfBytes_upTo (n : Nat) : ∀ bs t, bs.length ≤ n → textOfBytes bs = .ok t → t.flatMap putChar = bs := by
  induction n with
  | zero =>
    intro bs t hn h
    rw [List.length_eq_zero_iff.1 (Nat.le_zero.1 hn)] at h ⊢
    cases h; rfl
  | succ n ih =>
    intro bs t hn h
    rcases bs with _ | ⟨a, _ | ⟨b, _ | ⟨c, bs⟩⟩⟩
    · cases h; rfl
    · cases h
    · cases h
    · simp only [textOfBytes] at h
      split at h
      · next hv =>
        split at h
        · next t' ht =>
          cases h
          have ha := a.isLt
          have hb := b.isLt
          have hc := c.isLt
          have hcode : (Char.ofNat (fromLe [a, b, c])).toNat = a.toNat + 256 * (b.toNat + 256 * c.toNat) := by
            rw [Char.toNat_ofNat, if_pos hv]; simp [fromLe]
          have hput : putChar (Char.ofNat (fromLe [a, b, c])) = [a, b, c] := by
            simp only [putChar, hcode, List.cons.injEq, and_true]
            refine ⟨?_, ?_, ?_⟩ <;> apply BitVec.eq_of_toNat_eq <;> simp only [BitVec.toNat_ofNat] <;> omega
          rw [List.flatMap_cons, hput, ih bs t' (by simp at hn; omega) ht]; rfl
        · cases h
      · cases h

theorem put_textOfBytes {bs : List Byte} {t : Text} (h : textOfBytes bs = .ok t) : t.flatMap putChar = bs :=
  put_textOfBytes_upTo bs.length bs t le_rfl h

theorem reads_text : Reads readText putText := by
  intro t r
  rw [readText, putText, read_ok (reads_bytes _ _)]
  simp only [textOfBytes_put]
  rfl

theorem spells_text : Spells readText putText := by
  intro bs t r h
  obtain ⟨⟨ds, r1⟩, h1, h2⟩ := read_bind h
  obtain ⟨t', h3, h4⟩ := read_bind h2
  cases h4
  rw [putText, put_textOfBytes h3, spells_bytes _ _ _ h1]

theorem reads_option {α : Type} {rd : Reader α} {put : α → List Byte} (h : Reads rd put) :
    Reads (readOption rd) (putOption put) := by
  rintro (_ | a) r
  · rfl
  · rw [readOption, putOption, List.cons_append, read_ok (show readMark (1 :: (put a ++ r)) = .ok (true, put a ++ r) from rfl)]
    simp only [if_true]
    rw [read_ok (h a r)]

theorem spells_option {α : Type} {rd : Reader α} {put : α → List Byte} (h : Spells rd put) :
    Spells (readOption rd) (putOption put) := by
  intro bs o r ho
  obtain ⟨⟨present, r1⟩, h1, h2⟩ := read_bind ho
  rw [← spells_mark _ _ _ h1]
  cases present with
  | true =>
    simp only [if_true] at h2
    obtain ⟨⟨a, r2⟩, h3, h4⟩ := read_bind h2
    cases h4
    rw [← h _ _ _ h3]; rfl
  | false => cases h2; rfl

theorem reads_tag : Reads readTag putTag := by
  intro t r
  cases t with
  | unknown name =>
    rw [readTag, putTag, List.cons_append, read_ok (readByte_cons 5 _)]
    simp only
    rw [read_ok (reads_text name.val r)]
    exact dif_pos name.property
  | _ => rfl

theorem spells_tag : Spells readTag putTag := by
  intro bs t r h
  obtain ⟨⟨m, r1⟩, h1, h2⟩ := read_bind h
  rw [← spells_byte _ _ _ h1]
  clear h h1
  simp only at h2
  split at h2
  · next hm => cases h2; rw [hm]; rfl
  · split at h2
    · next hm => cases h2; rw [hm]; rfl
    · split at h2
      · next hm => cases h2; rw [hm]; rfl
      · split at h2
        · next hm => cases h2; rw [hm]; rfl
        · split at h2
          · next hm => cases h2; rw [hm]; rfl
          · split at h2
            · next hm =>
              obtain ⟨⟨name, r2⟩, h3, h4⟩ := read_bind h2
              simp only at h4
              split at h4 <;> cases h4
              rw [hm, ← spells_text _ _ _ h3]; rfl
            · cases h2

theorem reads_spec : Reads readSpec putSpec := by
  intro d r
  have ho := reads_option reads_rat
  simp only [readSpec, putSpec, List.append_assoc]
  rw [read_ok (reads_tag _ _)]; simp only
  rw [read_ok (ho _ _)]; simp only
  rw [read_ok (ho _ _)]; simp only
  rw [read_ok (ho _ _)]; simp only
  rw [read_ok (ho _ _)]

theorem spells_spec : Spells readSpec putSpec := by
  intro bs d r h
  have ho := spells_option spells_rat
  obtain ⟨⟨t, r1⟩, h1, h⟩ := read_bind h
  obtain ⟨⟨o, r2⟩, h2, h⟩ := read_bind h
  obtain ⟨⟨s, r3⟩, h3, h⟩ := read_bind h
  obtain ⟨⟨lo, r4⟩, h4, h⟩ := read_bind h
  obtain ⟨⟨hi, r5⟩, h5, h⟩ := read_bind h
  cases h
  simp only [putSpec, List.append_assoc]
  rw [ho _ _ _ h5, ho _ _ _ h4, ho _ _ _ h3, ho _ _ _ h2, spells_tag _ _ _ h1]

theorem reads_value : Reads readValue putValue := by
  intro v r
  cases v with
  | bytes b =>
    rw [readValue, putValue, List.cons_append, read_ok (readByte_cons 0 _)]; simp only
    rw [if_pos trivial, read_ok (reads_bytes _ _)]
  | int n =>
    rw [readValue, putValue, List.cons_append, read_ok (readByte_cons 1 _)]; simp only
    rw [if_neg (by decide), if_pos trivial, read_ok (reads_int _ _)]
  | rat q =>
    rw [readValue, putValue, List.cons_append, read_ok (readByte_cons 2 _)]; simp only
    rw [if_neg (by decide), if_neg (by decide), if_pos trivial, read_ok (reads_rat _ _)]
  | text t =>
    rw [readValue, putValue, List.cons_append, read_ok (readByte_cons 3 _)]; simp only
    rw [if_neg (by decide), if_neg (by decide), if_neg (by decide), if_pos trivial, read_ok (reads_text _ _)]
  | truth b =>
    rw [readValue, putValue, List.cons_append, read_ok (readByte_cons 4 _)]; simp only
    rw [if_neg (by decide), if_neg (by decide), if_neg (by decide), if_neg (by decide), if_pos trivial,
      read_ok (reads_mark _ _)]

theorem spells_value : Spells readValue putValue := by
  intro bs v r h
  obtain ⟨⟨m, r1⟩, h1, h2⟩ := read_bind h
  rw [← spells_byte _ _ _ h1]
  clear h h1
  simp only at h2
  split at h2
  · next hm =>
    obtain ⟨⟨a, r2⟩, h3, h4⟩ := read_bind h2
    cases h4; rw [hm, ← spells_bytes _ _ _ h3]; rfl
  · split at h2
    · next hm =>
      obtain ⟨⟨a, r2⟩, h3, h4⟩ := read_bind h2
      cases h4; rw [hm, ← spells_int _ _ _ h3]; rfl
    · split at h2
      · next hm =>
        obtain ⟨⟨a, r2⟩, h3, h4⟩ := read_bind h2
        cases h4; rw [hm, ← spells_rat _ _ _ h3]; rfl
      · split at h2
        · next hm =>
          obtain ⟨⟨a, r2⟩, h3, h4⟩ := read_bind h2
          cases h4; rw [hm, ← spells_text _ _ _ h3]; rfl
        · split at h2
          · next hm =>
            obtain ⟨⟨a, r2⟩, h3, h4⟩ := read_bind h2
            cases h4; rw [hm, ← spells_mark _ _ _ h3]; rfl
          · cases h2

theorem reads_sel : Reads readSel putSel := by
  intro x r
  cases x with
  | index k =>
    rw [readSel, putSel, List.cons_append, read_ok (readByte_cons 0 _)]; simp only
    rw [if_pos trivial, read_ok (reads_nat _ _)]
  | name n =>
    rw [readSel, putSel, List.cons_append, read_ok (readByte_cons 1 _)]; simp only
    rw [if_neg (by decide), if_pos trivial, read_ok (reads_text _ _)]

theorem spells_sel : Spells readSel putSel := by
  intro bs v r h
  obtain ⟨⟨m, r1⟩, h1, h2⟩ := read_bind h
  rw [← spells_byte _ _ _ h1]
  clear h h1
  simp only at h2
  split at h2
  · next hm =>
    obtain ⟨⟨a, r2⟩, h3, h4⟩ := read_bind h2
    cases h4; rw [hm, ← spells_nat _ _ _ h3]; rfl
  · split at h2
    · next hm =>
      obtain ⟨⟨a, r2⟩, h3, h4⟩ := read_bind h2
      cases h4; rw [hm, ← spells_text _ _ _ h3]; rfl
    · cases h2

theorem reads_request : Reads readRequest fun q => q.1 :: q.2.1 :: putBytes q.2.2 := by
  rintro ⟨a, i, p⟩ r
  rw [readRequest, List.cons_append, read_ok (readByte_cons a _)]; simp only
  rw [List.cons_append, read_ok (readByte_cons i _)]; simp only
  rw [read_ok (reads_bytes p r)]

theorem spells_request : Spells readRequest fun q => q.1 :: q.2.1 :: putBytes q.2.2 := by
  intro bs q r h
  obtain ⟨⟨a, r1⟩, h1, h⟩ := read_bind h
  obtain ⟨⟨i, r2⟩, h2, h⟩ := read_bind h
  obtain ⟨⟨p, r3⟩, h3, h⟩ := read_bind h
  cases h
  simp only [List.cons_append]
  rw [spells_bytes _ _ _ h3]
  have e2 := spells_byte _ _ _ h2
  simp only [List.cons_append, List.nil_append] at e2
  rw [e2]
  exact spells_byte _ _ _ h1

theorem readExactly_append (d r : List Byte) : readExactly d.length (d ++ r) = .ok (d, r) := by
  simp [readExactly]

theorem readExactly_ok {n : Nat} {bs d r : List Byte} (h : readExactly n bs = .ok (d, r)) :
    d.length = n ∧ d ++ r = bs := by
  rw [readExactly] at h
  split at h
  · cases h
  · next hn => cases h; simp; omega

end Sys2Proof
end

