-- ==== Sys2Proof/Laws/State.lean ====
section
/-! SUPPORT. One lemma per field of the state for each update the shared operations make, so that no proof unfolds a
record update; and the closed form of the hook fan-out and of sending a packet. -/

namespace Sys2Proof.Machine

/-! ### latchOp -/

@[simp] theorem latchOp_acc (x : HostOp) (s : State) : (latchOp x s).acc = s.acc := rfl
@[simp] theorem latchOp_txbuf (x : HostOp) (s : State) : (latchOp x s).txbuf = s.txbuf := rfl
@[simp] theorem latchOp_echo (x : HostOp) (s : State) : (latchOp x s).echo = s.echo := rfl
@[simp] theorem latchOp_hdr (x : HostOp) (s : State) : (latchOp x s).hdr = s.hdr := rfl
@[simp] theorem latchOp_len (x : HostOp) (s : State) : (latchOp x s).len = s.len := rfl
@[simp] theorem latchOp_body (x : HostOp) (s : State) : (latchOp x s).body = s.body := rfl
@[simp] theorem latchOp_phase (x : HostOp) (s : State) : (latchOp x s).phase = s.phase := rfl
@[simp] theorem latchOp_err (x : HostOp) (s : State) : (latchOp x s).err = s.err := rfl
@[simp] theorem latchOp_errByte (x : HostOp) (s : State) : (latchOp x s).errByte = s.errByte := rfl
@[simp] theorem latchOp_op (x : HostOp) (s : State) : (latchOp x s).op = x := rfl
@[simp] theorem latchOp_id (x : HostOp) (s : State) : (latchOp x s).id = s.id := rfl
@[simp] theorem latchOp_instr (x : HostOp) (s : State) : (latchOp x s).instr = s.instr := rfl
@[simp] theorem latchOp_params (x : HostOp) (s : State) : (latchOp x s).params = s.params := rfl
@[simp] theorem latchOp_regAddr (x : HostOp) (s : State) : (latchOp x s).regAddr = s.regAddr := rfl
@[simp] theorem latchOp_rlen (x : HostOp) (s : State) : (latchOp x s).rlen = s.rlen := rfl
@[simp] theorem latchOp_data (x : HostOp) (s : State) : (latchOp x s).data = s.data := rfl
@[simp] theorem latchOp_raw (x : HostOp) (s : State) : (latchOp x s).raw = s.raw := rfl
@[simp] theorem latchOp_comb (x : HostOp) (s : State) : (latchOp x s).comb = s.comb := rfl
@[simp] theorem latchOp_val (x : HostOp) (s : State) : (latchOp x s).val = s.val := rfl
@[simp] theorem latchOp_spec (x : HostOp) (s : State) : (latchOp x s).spec = s.spec := rfl
@[simp] theorem latchOp_bus (x : HostOp) (s : State) : (latchOp x s).bus = s.bus := rfl
@[simp] theorem latchOp_rxq (x : HostOp) (s : State) : (latchOp x s).rxq = s.rxq := rfl
@[simp] theorem latchOp_facades (x : HostOp) (s : State) : (latchOp x s).facades = s.facades := rfl
@[simp] theorem latchOp_devdb (x : HostOp) (s : State) : (latchOp x s).devdb = s.devdb := rfl
@[simp] theorem latchOp_nameSep (x : HostOp) (s : State) : (latchOp x s).nameSep = s.nameSep := rfl
@[simp] theorem latchOp_num (x : HostOp) (s : State) : (latchOp x s).num = s.num := rfl
@[simp] theorem latchOp_port (x : HostOp) (s : State) : (latchOp x s).port = s.port := rfl
@[simp] theorem latchOp_notifying (x : HostOp) (s : State) : (latchOp x s).notifying = s.notifying := rfl
@[simp] theorem latchOp_result (x : HostOp) (s : State) : (latchOp x s).result = s.result := rfl
@[simp] theorem latchOp_line (x : HostOp) (s : State) : (latchOp x s).line = s.line := rfl
@[simp] theorem latchOp_events (x : HostOp) (s : State) : (latchOp x s).events = s.events := rfl
@[simp] theorem latchOp_hwerr (x : HostOp) (s : State) : (latchOp x s).hwerr = s.hwerr := rfl
@[simp] theorem latchOp_diag (x : HostOp) (s : State) : (latchOp x s).diag = s.diag := rfl

/-! ### latchRequest -/

@[simp] theorem latchRequest_acc (a i : Byte) (p : List Byte) (s : State) : (latchRequest a i p s).acc = s.acc := rfl
@[simp] theorem latchRequest_txbuf (a i : Byte) (p : List Byte) (s : State) : (latchRequest a i p s).txbuf = s.txbuf := rfl
@[simp] theorem latchRequest_echo (a i : Byte) (p : List Byte) (s : State) : (latchRequest a i p s).echo = s.echo := rfl
@[simp] theorem latchRequest_hdr (a i : Byte) (p : List Byte) (s : State) : (latchRequest a i p s).hdr = s.hdr := rfl
@[simp] theorem latchRequest_len (a i : Byte) (p : List Byte) (s : State) : (latchRequest a i p s).len = s.len := rfl
@[simp] theorem latchRequest_body (a i : Byte) (p : List Byte) (s : State) : (latchRequest a i p s).body = s.body := rfl
@[simp] theorem latchRequest_phase (a i : Byte) (p : List Byte) (s : State) : (latchRequest a i p s).phase = s.phase := rfl
@[simp] theorem latchRequest_err (a i : Byte) (p : List Byte) (s : State) : (latchRequest a i p s).err = s.err := rfl
@[simp] theorem latchRequest_errByte (a i : Byte) (p : List Byte) (s : State) : (latchRequest a i p s).errByte = s.errByte := rfl
@[simp] theorem latchRequest_op (a i : Byte) (p : List Byte) (s : State) : (latchRequest a i p s).op = s.op := rfl
@[simp] theorem latchRequest_id (a i : Byte) (p : List Byte) (s : State) : (latchRequest a i p s).id = a := rfl
@[simp] theorem latchRequest_instr (a i : Byte) (p : List Byte) (s : State) : (latchRequest a i p s).instr = i := rfl
@[simp] theorem latchRequest_params (a i : Byte) (p : List Byte) (s : State) : (latchRequest a i p s).params = p := rfl
@[simp] theorem latchRequest_regAddr (a i : Byte) (p : List Byte) (s : State) : (latchRequest a i p s).regAddr = s.regAddr := rfl
@[simp] theorem latchRequest_rlen (a i : Byte) (p : List Byte) (s : State) : (latchRequest a i p s).rlen = s.rlen := rfl
@[simp] theorem latchRequest_data (a i : Byte) (p : List Byte) (s : State) : (latchRequest a i p s).data = s.data := rfl
@[simp] theorem latchRequest_raw (a i : Byte) (p : List Byte) (s : State) : (latchRequest a i p s).raw = s.raw := rfl
@[simp] theorem latchRequest_comb (a i : Byte) (p : List Byte) (s : State) : (latchRequest a i p s).comb = s.comb := rfl
@[simp] theorem latchRequest_val (a i : Byte) (p : List Byte) (s : State) : (latchRequest a i p s).val = s.val := rfl
@[simp] theorem latchRequest_spec (a i : Byte) (p : List Byte) (s : State) : (latchRequest a i p s).spec = s.spec := rfl
@[simp] theorem latchRequest_bus (a i : Byte) (p : List Byte) (s : State) : (latchRequest a i p s).bus = s.bus := rfl
@[simp] theorem latchRequest_rxq (a i : Byte) (p : List Byte) (s : State) : (latchRequest a i p s).rxq = s.rxq := rfl
@[simp] theorem latchRequest_facades (a i : Byte) (p : List Byte) (s : State) : (latchRequest a i p s).facades = s.facades := rfl
@[simp] theorem latchRequest_devdb (a i : Byte) (p : List Byte) (s : State) : (latchRequest a i p s).devdb = s.devdb := rfl
@[simp] theorem latchRequest_nameSep (a i : Byte) (p : List Byte) (s : State) : (latchRequest a i p s).nameSep = s.nameSep := rfl
@[simp] theorem latchRequest_num (a i : Byte) (p : List Byte) (s : State) : (latchRequest a i p s).num = s.num := rfl
@[simp] theorem latchRequest_port (a i : Byte) (p : List Byte) (s : State) : (latchRequest a i p s).port = s.port := rfl
@[simp] theorem latchRequest_notifying (a i : Byte) (p : List Byte) (s : State) : (latchRequest a i p s).notifying = s.notifying := rfl
@[simp] theorem latchRequest_result (a i : Byte) (p : List Byte) (s : State) : (latchRequest a i p s).result = s.result := rfl
@[simp] theorem latchRequest_line (a i : Byte) (p : List Byte) (s : State) : (latchRequest a i p s).line = s.line := rfl
@[simp] theorem latchRequest_events (a i : Byte) (p : List Byte) (s : State) : (latchRequest a i p s).events = s.events := rfl
@[simp] theorem latchRequest_hwerr (a i : Byte) (p : List Byte) (s : State) : (latchRequest a i p s).hwerr = s.hwerr := rfl
@[simp] theorem latchRequest_diag (a i : Byte) (p : List Byte) (s : State) : (latchRequest a i p s).diag = s.diag := rfl

/-! ### deliver -/

@[simp] theorem deliver_acc (r : OpResult) (s : State) : (deliver r s).acc = s.acc := rfl
@[simp] theorem deliver_txbuf (r : OpResult) (s : State) : (deliver r s).txbuf = s.txbuf := rfl
@[simp] theorem deliver_echo (r : OpResult) (s : State) : (deliver r s).echo = s.echo := rfl
@[simp] theorem deliver_hdr (r : OpResult) (s : State) : (deliver r s).hdr = s.hdr := rfl
@[simp] theorem deliver_len (r : OpResult) (s : State) : (deliver r s).len = s.len := rfl
@[simp] theorem deliver_body (r : OpResult) (s : State) : (deliver r s).body = s.body := rfl
@[simp] theorem deliver_phase (r : OpResult) (s : State) : (deliver r s).phase = s.phase := rfl
@[simp] theorem deliver_err (r : OpResult) (s : State) : (deliver r s).err = s.err := rfl
@[simp] theorem deliver_errByte (r : OpResult) (s : State) : (deliver r s).errByte = s.errByte := rfl
@[simp] theorem deliver_op (r : OpResult) (s : State) : (deliver r s).op = s.op := rfl
@[simp] theorem deliver_id (r : OpResult) (s : State) : (deliver r s).id = s.id := rfl
@[simp] theorem deliver_instr (r : OpResult) (s : State) : (deliver r s).instr = s.instr := rfl
@[simp] theorem deliver_params (r : OpResult) (s : State) : (deliver r s).params = s.params := rfl
@[simp] theorem deliver_regAddr (r : OpResult) (s : State) : (deliver r s).regAddr = s.regAddr := rfl
@[simp] theorem deliver_rlen (r : OpResult) (s : State) : (deliver r s).rlen = s.rlen := rfl
@[simp] theorem deliver_data (r : OpResult) (s : State) : (deliver r s).data = s.data := rfl
@[simp] theorem deliver_raw (r : OpResult) (s : State) : (deliver r s).raw = s.raw := rfl
@[simp] theorem deliver_comb (r : OpResult) (s : State) : (deliver r s).comb = s.comb := rfl
@[simp] theorem deliver_val (r : OpResult) (s : State) : (deliver r s).val = s.val := rfl
@[simp] theorem deliver_spec (r : OpResult) (s : State) : (deliver r s).spec = s.spec := rfl
@[simp] theorem deliver_bus (r : OpResult) (s : State) : (deliver r s).bus = s.bus := rfl
@[simp] theorem deliver_rxq (r : OpResult) (s : State) : (deliver r s).rxq = s.rxq := rfl
@[simp] theorem deliver_facades (r : OpResult) (s : State) : (deliver r s).facades = s.facades := rfl
@[simp] theorem deliver_devdb (r : OpResult) (s : State) : (deliver r s).devdb = s.devdb := rfl
@[simp] theorem deliver_nameSep (r : OpResult) (s : State) : (deliver r s).nameSep = s.nameSep := rfl
@[simp] theorem deliver_num (r : OpResult) (s : State) : (deliver r s).num = s.num := rfl
@[simp] theorem deliver_port (r : OpResult) (s : State) : (deliver r s).port = s.port := rfl
@[simp] theorem deliver_notifying (r : OpResult) (s : State) : (deliver r s).notifying = s.notifying := rfl
@[simp] theorem deliver_result (r : OpResult) (s : State) : (deliver r s).result = r := rfl
@[simp] theorem deliver_line (r : OpResult) (s : State) : (deliver r s).line = s.line := rfl
@[simp] theorem deliver_events (r : OpResult) (s : State) : (deliver r s).events = s.events := rfl
@[simp] theorem deliver_hwerr (r : OpResult) (s : State) : (deliver r s).hwerr = s.hwerr := rfl
@[simp] theorem deliver_diag (r : OpResult) (s : State) : (deliver r s).diag = s.diag := rfl

/-! ### runCrc -/

@[simp] theorem runCrc_acc (b : List Byte) (s : State) : (runCrc b s).acc = crc16 b := rfl
@[simp] theorem runCrc_txbuf (b : List Byte) (s : State) : (runCrc b s).txbuf = s.txbuf := rfl
@[simp] theorem runCrc_echo (b : List Byte) (s : State) : (runCrc b s).echo = s.echo := rfl
@[simp] theorem runCrc_hdr (b : List Byte) (s : State) : (runCrc b s).hdr = s.hdr := rfl
@[simp] theorem runCrc_len (b : List Byte) (s : State) : (runCrc b s).len = s.len := rfl
@[simp] theorem runCrc_body (b : List Byte) (s : State) : (runCrc b s).body = s.body := rfl
@[simp] theorem runCrc_phase (b : List Byte) (s : State) : (runCrc b s).phase = s.phase := rfl
@[simp] theorem runCrc_err (b : List Byte) (s : State) : (runCrc b s).err = s.err := rfl
@[simp] theorem runCrc_errByte (b : List Byte) (s : State) : (runCrc b s).errByte = s.errByte := rfl
@[simp] theorem runCrc_op (b : List Byte) (s : State) : (runCrc b s).op = s.op := rfl
@[simp] theorem runCrc_id (b : List Byte) (s : State) : (runCrc b s).id = s.id := rfl
@[simp] theorem runCrc_instr (b : List Byte) (s : State) : (runCrc b s).instr = s.instr := rfl
@[simp] theorem runCrc_params (b : List Byte) (s : State) : (runCrc b s).params = s.params := rfl
@[simp] theorem runCrc_regAddr (b : List Byte) (s : State) : (runCrc b s).regAddr = s.regAddr := rfl
@[simp] theorem runCrc_rlen (b : List Byte) (s : State) : (runCrc b s).rlen = s.rlen := rfl
@[simp] theorem runCrc_data (b : List Byte) (s : State) : (runCrc b s).data = s.data := rfl
@[simp] theorem runCrc_raw (b : List Byte) (s : State) : (runCrc b s).raw = s.raw := rfl
@[simp] theorem runCrc_comb (b : List Byte) (s : State) : (runCrc b s).comb = s.comb := rfl
@[simp] theorem runCrc_val (b : List Byte) (s : State) : (runCrc b s).val = s.val := rfl
@[simp] theorem runCrc_spec (b : List Byte) (s : State) : (runCrc b s).spec = s.spec := rfl
@[simp] theorem runCrc_bus (b : List Byte) (s : State) : (runCrc b s).bus = s.bus := rfl
@[simp] theorem runCrc_rxq (b : List Byte) (s : State) : (runCrc b s).rxq = s.rxq := rfl
@[simp] theorem runCrc_facades (b : List Byte) (s : State) : (runCrc b s).facades = s.facades := rfl
@[simp] theorem runCrc_devdb (b : List Byte) (s : State) : (runCrc b s).devdb = s.devdb := rfl
@[simp] theorem runCrc_nameSep (b : List Byte) (s : State) : (runCrc b s).nameSep = s.nameSep := rfl
@[simp] theorem runCrc_num (b : List Byte) (s : State) : (runCrc b s).num = s.num := rfl
@[simp] theorem runCrc_port (b : List Byte) (s : State) : (runCrc b s).port = s.port := rfl
@[simp] theorem runCrc_notifying (b : List Byte) (s : State) : (runCrc b s).notifying = s.notifying := rfl
@[simp] theorem runCrc_result (b : List Byte) (s : State) : (runCrc b s).result = s.result := rfl
@[simp] theorem runCrc_line (b : List Byte) (s : State) : (runCrc b s).line = s.line := rfl
@[simp] theorem runCrc_events (b : List Byte) (s : State) : (runCrc b s).events = s.events := rfl
@[simp] theorem runCrc_hwerr (b : List Byte) (s : State) : (runCrc b s).hwerr = s.hwerr := rfl
@[simp] theorem runCrc_diag (b : List Byte) (s : State) : (runCrc b s).diag = s.diag := rfl

/-! ### rxFlush -/

@[simp] theorem rxFlush_acc (s : State) : (rxFlush s).acc = s.acc := rfl
@[simp] theorem rxFlush_txbuf (s : State) : (rxFlush s).txbuf = s.txbuf := rfl
@[simp] theorem rxFlush_echo (s : State) : (rxFlush s).echo = s.echo := rfl
@[simp] theorem rxFlush_hdr (s : State) : (rxFlush s).hdr = s.hdr := rfl
@[simp] theorem rxFlush_len (s : State) : (rxFlush s).len = s.len := rfl
@[simp] theorem rxFlush_body (s : State) : (rxFlush s).body = s.body := rfl
@[simp] theorem rxFlush_phase (s : State) : (rxFlush s).phase = s.phase := rfl
@[simp] theorem rxFlush_err (s : State) : (rxFlush s).err = s.err := rfl
@[simp] theorem rxFlush_errByte (s : State) : (rxFlush s).errByte = s.errByte := rfl
@[simp] theorem rxFlush_op (s : State) : (rxFlush s).op = s.op := rfl
@[simp] theorem rxFlush_id (s : State) : (rxFlush s).id = s.id := rfl
@[simp] theorem rxFlush_instr (s : State) : (rxFlush s).instr = s.instr := rfl
@[simp] theorem rxFlush_params (s : State) : (rxFlush s).params = s.params := rfl
@[simp] theorem rxFlush_regAddr (s : State) : (rxFlush s).regAddr = s.regAddr := rfl
@[simp] theorem rxFlush_rlen (s : State) : (rxFlush s).rlen = s.rlen := rfl
@[simp] theorem rxFlush_data (s : State) : (rxFlush s).data = s.data := rfl
@[simp] theorem rxFlush_raw (s : State) : (rxFlush s).raw = s.raw := rfl
@[simp] theorem rxFlush_comb (s : State) : (rxFlush s).comb = s.comb := rfl
@[simp] theorem rxFlush_val (s : State) : (rxFlush s).val = s.val := rfl
@[simp] theorem rxFlush_spec (s : State) : (rxFlush s).spec = s.spec := rfl
@[simp] theorem rxFlush_bus (s : State) : (rxFlush s).bus = s.bus := rfl
@[simp] theorem rxFlush_rxq (s : State) : (rxFlush s).rxq = [] := rfl
@[simp] theorem rxFlush_facades (s : State) : (rxFlush s).facades = s.facades := rfl
@[simp] theorem rxFlush_devdb (s : State) : (rxFlush s).devdb = s.devdb := rfl
@[simp] theorem rxFlush_nameSep (s : State) : (rxFlush s).nameSep = s.nameSep := rfl
@[simp] theorem rxFlush_num (s : State) : (rxFlush s).num = s.num := rfl
@[simp] theorem rxFlush_port (s : State) : (rxFlush s).port = s.port := rfl
@[simp] theorem rxFlush_notifying (s : State) : (rxFlush s).notifying = s.notifying := rfl
@[simp] theorem rxFlush_result (s : State) : (rxFlush s).result = s.result := rfl
@[simp] theorem rxFlush_line (s : State) : (rxFlush s).line = s.line.tail := rfl
@[simp] theorem rxFlush_events (s : State) : (rxFlush s).events = s.events ++ [(s.phase, .flush)] := rfl
@[simp] theorem rxFlush_hwerr (s : State) : (rxFlush s).hwerr = s.hwerr := rfl
@[simp] theorem rxFlush_diag (s : State) : (rxFlush s).diag = s.diag := rfl

/-! ### txWrite -/

@[simp] theorem txWrite_acc (b : List Byte) (s : State) : (txWrite b s).acc = s.acc := rfl
@[simp] theorem txWrite_txbuf (b : List Byte) (s : State) : (txWrite b s).txbuf = s.txbuf := rfl
@[simp] theorem txWrite_echo (b : List Byte) (s : State) : (txWrite b s).echo = s.echo := rfl
@[simp] theorem txWrite_hdr (b : List Byte) (s : State) : (txWrite b s).hdr = s.hdr := rfl
@[simp] theorem txWrite_len (b : List Byte) (s : State) : (txWrite b s).len = s.len := rfl
@[simp] theorem txWrite_body (b : List Byte) (s : State) : (txWrite b s).body = s.body := rfl
@[simp] theorem txWrite_phase (b : List Byte) (s : State) : (txWrite b s).phase = s.phase := rfl
@[simp] theorem txWrite_err (b : List Byte) (s : State) : (txWrite b s).err = s.err := rfl
@[simp] theorem txWrite_errByte (b : List Byte) (s : State) : (txWrite b s).errByte = s.errByte := rfl
@[simp] theorem txWrite_op (b : List Byte) (s : State) : (txWrite b s).op = s.op := rfl
@[simp] theorem txWrite_id (b : List Byte) (s : State) : (txWrite b s).id = s.id := rfl
@[simp] theorem txWrite_instr (b : List Byte) (s : State) : (txWrite b s).instr = s.instr := rfl
@[simp] theorem txWrite_params (b : List Byte) (s : State) : (txWrite b s).params = s.params := rfl
@[simp] theorem txWrite_regAddr (b : List Byte) (s : State) : (txWrite b s).regAddr = s.regAddr := rfl
@[simp] theorem txWrite_rlen (b : List Byte) (s : State) : (txWrite b s).rlen = s.rlen := rfl
@[simp] theorem txWrite_data (b : List Byte) (s : State) : (txWrite b s).data = s.data := rfl
@[simp] theorem txWrite_raw (b : List Byte) (s : State) : (txWrite b s).raw = s.raw := rfl
@[simp] theorem txWrite_comb (b : List Byte) (s : State) : (txWrite b s).comb = s.comb := rfl
@[simp] theorem txWrite_val (b : List Byte) (s : State) : (txWrite b s).val = s.val := rfl
@[simp] theorem txWrite_spec (b : List Byte) (s : State) : (txWrite b s).spec = s.spec := rfl
@[simp] theorem txWrite_bus (b : List Byte) (s : State) : (txWrite b s).bus = s.bus := rfl
@[simp] theorem txWrite_rxq (b : List Byte) (s : State) : (txWrite b s).rxq = s.rxq ++ (lineNow s).arrives ++ (lineNow s).heard.getD b := rfl
@[simp] theorem txWrite_facades (b : List Byte) (s : State) : (txWrite b s).facades = s.facades := rfl
@[simp] theorem txWrite_devdb (b : List Byte) (s : State) : (txWrite b s).devdb = s.devdb := rfl
@[simp] theorem txWrite_nameSep (b : List Byte) (s : State) : (txWrite b s).nameSep = s.nameSep := rfl
@[simp] theorem txWrite_num (b : List Byte) (s : State) : (txWrite b s).num = s.num := rfl
@[simp] theorem txWrite_port (b : List Byte) (s : State) : (txWrite b s).port = s.port := rfl
@[simp] theorem txWrite_notifying (b : List Byte) (s : State) : (txWrite b s).notifying = s.notifying := rfl
@[simp] theorem txWrite_result (b : List Byte) (s : State) : (txWrite b s).result = s.result := rfl
@[simp] theorem txWrite_line (b : List Byte) (s : State) : (txWrite b s).line = s.line.tail := rfl
@[simp] theorem txWrite_events (b : List Byte) (s : State) : (txWrite b s).events = s.events ++ [(s.phase, .write b)] := rfl
@[simp] theorem txWrite_hwerr (b : List Byte) (s : State) : (txWrite b s).hwerr = s.hwerr := rfl
@[simp] theorem txWrite_diag (b : List Byte) (s : State) : (txWrite b s).diag = s.diag := rfl

/-! ### rxRead -/

@[simp] theorem rxRead_got (n : Nat) (s : State) : (rxRead n s).1 = (pending s).take (readLimit n s) := rfl
@[simp] theorem rxRead_acc (n : Nat) (s : State) : (rxRead n s).2.acc = s.acc := rfl
@[simp] theorem rxRead_txbuf (n : Nat) (s : State) : (rxRead n s).2.txbuf = s.txbuf := rfl
@[simp] theorem rxRead_echo (n : Nat) (s : State) : (rxRead n s).2.echo = s.echo := rfl
@[simp] theorem rxRead_hdr (n : Nat) (s : State) : (rxRead n s).2.hdr = s.hdr := rfl
@[simp] theorem rxRead_len (n : Nat) (s : State) : (rxRead n s).2.len = s.len := rfl
@[simp] theorem rxRead_body (n : Nat) (s : State) : (rxRead n s).2.body = s.body := rfl
@[simp] theorem rxRead_phase (n : Nat) (s : State) : (rxRead n s).2.phase = s.phase := rfl
@[simp] theorem rxRead_err (n : Nat) (s : State) : (rxRead n s).2.err = s.err := rfl
@[simp] theorem rxRead_errByte (n : Nat) (s : State) : (rxRead n s).2.errByte = s.errByte := rfl
@[simp] theorem rxRead_op (n : Nat) (s : State) : (rxRead n s).2.op = s.op := rfl
@[simp] theorem rxRead_id (n : Nat) (s : State) : (rxRead n s).2.id = s.id := rfl
@[simp] theorem rxRead_instr (n : Nat) (s : State) : (rxRead n s).2.instr = s.instr := rfl
@[simp] theorem rxRead_params (n : Nat) (s : State) : (rxRead n s).2.params = s.params := rfl
@[simp] theorem rxRead_regAddr (n : Nat) (s : State) : (rxRead n s).2.regAddr = s.regAddr := rfl
@[simp] theorem rxRead_rlen (n : Nat) (s : State) : (rxRead n s).2.rlen = s.rlen := rfl
@[simp] theorem rxRead_data (n : Nat) (s : State) : (rxRead n s).2.data = s.data := rfl
@[simp] theorem rxRead_raw (n : Nat) (s : State) : (rxRead n s).2.raw = s.raw := rfl
@[simp] theorem rxRead_comb (n : Nat) (s : State) : (rxRead n s).2.comb = s.comb := rfl
@[simp] theorem rxRead_val (n : Nat) (s : State) : (rxRead n s).2.val = s.val := rfl
@[simp] theorem rxRead_spec (n : Nat) (s : State) : (rxRead n s).2.spec = s.spec := rfl
@[simp] theorem rxRead_bus (n : Nat) (s : State) : (rxRead n s).2.bus = s.bus := rfl
@[simp] theorem rxRead_rxq (n : Nat) (s : State) : (rxRead n s).2.rxq = (pending s).drop (readLimit n s) := rfl
@[simp] theorem rxRead_facades (n : Nat) (s : State) : (rxRead n s).2.facades = s.facades := rfl
@[simp] theorem rxRead_devdb (n : Nat) (s : State) : (rxRead n s).2.devdb = s.devdb := rfl
@[simp] theorem rxRead_nameSep (n : Nat) (s : State) : (rxRead n s).2.nameSep = s.nameSep := rfl
@[simp] theorem rxRead_num (n : Nat) (s : State) : (rxRead n s).2.num = s.num := rfl
@[simp] theorem rxRead_port (n : Nat) (s : State) : (rxRead n s).2.port = s.port := rfl
@[simp] theorem rxRead_notifying (n : Nat) (s : State) : (rxRead n s).2.notifying = s.notifying := rfl
@[simp] theorem rxRead_result (n : Nat) (s : State) : (rxRead n s).2.result = s.result := rfl
@[simp] theorem rxRead_line (n : Nat) (s : State) : (rxRead n s).2.line = s.line.tail := rfl
@[simp] theorem rxRead_events (n : Nat) (s : State) : (rxRead n s).2.events = s.events ++ [(s.phase, .read n ((pending s).take (readLimit n s)))] := rfl
@[simp] theorem rxRead_hwerr (n : Nat) (s : State) : (rxRead n s).2.hwerr = s.hwerr := rfl
@[simp] theorem rxRead_diag (n : Nat) (s : State) : (rxRead n s).2.diag = s.diag := rfl

/-! ### raiseError -/

@[simp] theorem raiseError_acc (e : TxError) (s : State) : (raiseError e s).acc = s.acc := rfl
@[simp] theorem raiseError_txbuf (e : TxError) (s : State) : (raiseError e s).txbuf = s.txbuf := rfl
@[simp] theorem raiseError_echo (e : TxError) (s : State) : (raiseError e s).echo = s.echo := rfl
@[simp] theorem raiseError_hdr (e : TxError) (s : State) : (raiseError e s).hdr = s.hdr := rfl
@[simp] theorem raiseError_len (e : TxError) (s : State) : (raiseError e s).len = s.len := rfl
@[simp] theorem raiseError_body (e : TxError) (s : State) : (raiseError e s).body = s.body := rfl
@[simp] theorem raiseError_phase (e : TxError) (s : State) : (raiseError e s).phase = .failed := rfl
@[simp] theorem raiseError_err (e : TxError) (s : State) : (raiseError e s).err = .failed e := rfl
@[simp] theorem raiseError_errByte (e : TxError) (s : State) : (raiseError e s).errByte = s.errByte := rfl
@[simp] theorem raiseError_op (e : TxError) (s : State) : (raiseError e s).op = s.op := rfl
@[simp] theorem raiseError_id (e : TxError) (s : State) : (raiseError e s).id = s.id := rfl
@[simp] theorem raiseError_instr (e : TxError) (s : State) : (raiseError e s).instr = s.instr := rfl
@[simp] theorem raiseError_params (e : TxError) (s : State) : (raiseError e s).params = s.params := rfl
@[simp] theorem raiseError_regAddr (e : TxError) (s : State) : (raiseError e s).regAddr = s.regAddr := rfl
@[simp] theorem raiseError_rlen (e : TxError) (s : State) : (raiseError e s).rlen = s.rlen := rfl
@[simp] theorem raiseError_data (e : TxError) (s : State) : (raiseError e s).data = s.data := rfl
@[simp] theorem raiseError_raw (e : TxError) (s : State) : (raiseError e s).raw = s.raw := rfl
@[simp] theorem raiseError_comb (e : TxError) (s : State) : (raiseError e s).comb = s.comb := rfl
@[simp] theorem raiseError_val (e : TxError) (s : State) : (raiseError e s).val = s.val := rfl
@[simp] theorem raiseError_spec (e : TxError) (s : State) : (raiseError e s).spec = s.spec := rfl
@[simp] theorem raiseError_bus (e : TxError) (s : State) : (raiseError e s).bus = s.bus := rfl
@[simp] theorem raiseError_rxq (e : TxError) (s : State) : (raiseError e s).rxq = s.rxq := rfl
@[simp] theorem raiseError_facades (e : TxError) (s : State) : (raiseError e s).facades = s.facades := rfl
@[simp] theorem raiseError_devdb (e : TxError) (s : State) : (raiseError e s).devdb = s.devdb := rfl
@[simp] theorem raiseError_nameSep (e : TxError) (s : State) : (raiseError e s).nameSep = s.nameSep := rfl
@[simp] theorem raiseError_num (e : TxError) (s : State) : (raiseError e s).num = s.num := rfl
@[simp] theorem raiseError_port (e : TxError) (s : State) : (raiseError e s).port = s.port := rfl
@[simp] theorem raiseError_notifying (e : TxError) (s : State) : (raiseError e s).notifying = s.notifying := rfl
@[simp] theorem raiseError_result (e : TxError) (s : State) : (raiseError e s).result = s.result := rfl
@[simp] theorem raiseError_line (e : TxError) (s : State) : (raiseError e s).line = s.line := rfl
@[simp] theorem raiseError_events (e : TxError) (s : State) : (raiseError e s).events = s.events := rfl
@[simp] theorem raiseError_hwerr (e : TxError) (s : State) : (raiseError e s).hwerr = s.hwerr := rfl
@[simp] theorem raiseError_diag (e : TxError) (s : State) : (raiseError e s).diag = s.diag ++ [.transactionError e (e.info s.errByte)] := rfl

/-! ### returnIdle -/

@[simp] theorem returnIdle_acc (s : State) : (returnIdle s).acc = s.acc := rfl
@[simp] theorem returnIdle_txbuf (s : State) : (returnIdle s).txbuf = s.txbuf := rfl
@[simp] theorem returnIdle_echo (s : State) : (returnIdle s).echo = s.echo := rfl
@[simp] theorem returnIdle_hdr (s : State) : (returnIdle s).hdr = s.hdr := rfl
@[simp] theorem returnIdle_len (s : State) : (returnIdle s).len = s.len := rfl
@[simp] theorem returnIdle_body (s : State) : (returnIdle s).body = s.body := rfl
@[simp] theorem returnIdle_phase (s : State) : (returnIdle s).phase = .idle := rfl
@[simp] theorem returnIdle_err (s : State) : (returnIdle s).err = s.err := rfl
@[simp] theorem returnIdle_errByte (s : State) : (returnIdle s).errByte = s.errByte := rfl
@[simp] theorem returnIdle_op (s : State) : (returnIdle s).op = s.op := rfl
@[simp] theorem returnIdle_id (s : State) : (returnIdle s).id = s.id := rfl
@[simp] theorem returnIdle_instr (s : State) : (returnIdle s).instr = s.instr := rfl
@[simp] theorem returnIdle_params (s : State) : (returnIdle s).params = s.params := rfl
@[simp] theorem returnIdle_regAddr (s : State) : (returnIdle s).regAddr = s.regAddr := rfl
@[simp] theorem returnIdle_rlen (s : State) : (returnIdle s).rlen = s.rlen := rfl
@[simp] theorem returnIdle_data (s : State) : (returnIdle s).data = s.data := rfl
@[simp] theorem returnIdle_raw (s : State) : (returnIdle s).raw = s.raw := rfl
@[simp] theorem returnIdle_comb (s : State) : (returnIdle s).comb = s.comb := rfl
@[simp] theorem returnIdle_val (s : State) : (returnIdle s).val = s.val := rfl
@[simp] theorem returnIdle_spec (s : State) : (returnIdle s).spec = s.spec := rfl
@[simp] theorem returnIdle_bus (s : State) : (returnIdle s).bus = s.bus := rfl
@[simp] theorem returnIdle_rxq (s : State) : (returnIdle s).rxq = s.rxq := rfl
@[simp] theorem returnIdle_facades (s : State) : (returnIdle s).facades = s.facades := rfl
@[simp] theorem returnIdle_devdb (s : State) : (returnIdle s).devdb = s.devdb := rfl
@[simp] theorem returnIdle_nameSep (s : State) : (returnIdle s).nameSep = s.nameSep := rfl
@[simp] theorem returnIdle_num (s : State) : (returnIdle s).num = s.num := rfl
@[simp] theorem returnIdle_port (s : State) : (returnIdle s).port = s.port := rfl
@[simp] theorem returnIdle_notifying (s : State) : (returnIdle s).notifying = s.notifying := rfl
@[simp] theorem returnIdle_result (s : State) : (returnIdle s).result = s.result := rfl
@[simp] theorem returnIdle_line (s : State) : (returnIdle s).line = s.line := rfl
@[simp] theorem returnIdle_events (s : State) : (returnIdle s).events = s.events := rfl
@[simp] theorem returnIdle_hwerr (s : State) : (returnIdle s).hwerr = s.hwerr := rfl
@[simp] theorem returnIdle_diag (s : State) : (returnIdle s).diag = s.diag := rfl

/-! ### note -/

@[simp] theorem note_acc (d : Diag) (s : State) : (note d s).acc = s.acc := rfl
@[simp] theorem note_txbuf (d : Diag) (s : State) : (note d s).txbuf = s.txbuf := rfl
@[simp] theorem note_echo (d : Diag) (s : State) : (note d s).echo = s.echo := rfl
@[simp] theorem note_hdr (d : Diag) (s : State) : (note d s).hdr = s.hdr := rfl
@[simp] theorem note_len (d : Diag) (s : State) : (note d s).len = s.len := rfl
@[simp] theorem note_body (d : Diag) (s : State) : (note d s).body = s.body := rfl
@[simp] theorem note_phase (d : Diag) (s : State) : (note d s).phase = s.phase := rfl
@[simp] theorem note_err (d : Diag) (s : State) : (note d s).err = s.err := rfl
@[simp] theorem note_errByte (d : Diag) (s : State) : (note d s).errByte = s.errByte := rfl
@[simp] theorem note_op (d : Diag) (s : State) : (note d s).op = s.op := rfl
@[simp] theorem note_id (d : Diag) (s : State) : (note d s).id = s.id := rfl
@[simp] theorem note_instr (d : Diag) (s : State) : (note d s).instr = s.instr := rfl
@[simp] theorem note_params (d : Diag) (s : State) : (note d s).params = s.params := rfl
@[simp] theorem note_regAddr (d : Diag) (s : State) : (note d s).regAddr = s.regAddr := rfl
@[simp] theorem note_rlen (d : Diag) (s : State) : (note d s).rlen = s.rlen := rfl
@[simp] theorem note_data (d : Diag) (s : State) : (note d s).data = s.data := rfl
@[simp] theorem note_raw (d : Diag) (s : State) : (note d s).raw = s.raw := rfl
@[simp] theorem note_comb (d : Diag) (s : State) : (note d s).comb = s.comb := rfl
@[simp] theorem note_val (d : Diag) (s : State) : (note d s).val = s.val := rfl
@[simp] theorem note_spec (d : Diag) (s : State) : (note d s).spec = s.spec := rfl
@[simp] theorem note_bus (d : Diag) (s : State) : (note d s).bus = s.bus := rfl
@[simp] theorem note_rxq (d : Diag) (s : State) : (note d s).rxq = s.rxq := rfl
@[simp] theorem note_facades (d : Diag) (s : State) : (note d s).facades = s.facades := rfl
@[simp] theorem note_devdb (d : Diag) (s : State) : (note d s).devdb = s.devdb := rfl
@[simp] theorem note_nameSep (d : Diag) (s : State) : (note d s).nameSep = s.nameSep := rfl
@[simp] theorem note_num (d : Diag) (s : State) : (note d s).num = s.num := rfl
@[simp] theorem note_port (d : Diag) (s : State) : (note d s).port = s.port := rfl
@[simp] theorem note_notifying (d : Diag) (s : State) : (note d s).notifying = s.notifying := rfl
@[simp] theorem note_result (d : Diag) (s : State) : (note d s).result = s.result := rfl
@[simp] theorem note_line (d : Diag) (s : State) : (note d s).line = s.line := rfl
@[simp] theorem note_events (d : Diag) (s : State) : (note d s).events = s.events := rfl
@[simp] theorem note_hwerr (d : Diag) (s : State) : (note d s).hwerr = s.hwerr := rfl
@[simp] theorem note_diag (d : Diag) (s : State) : (note d s).diag = s.diag ++ [d] := rfl

/-! ### step10 -/

@[simp] theorem step10_acc (s : State) : (step10 s).acc = s.acc := rfl
@[simp] theorem step10_txbuf (s : State) : (step10 s).txbuf = s.txbuf := rfl
@[simp] theorem step10_echo (s : State) : (step10 s).echo = s.echo := rfl
@[simp] theorem step10_hdr (s : State) : (step10 s).hdr = s.hdr := rfl
@[simp] theorem step10_len (s : State) : (step10 s).len = s.len := rfl
@[simp] theorem step10_body (s : State) : (step10 s).body = s.body := rfl
@[simp] theorem step10_phase (s : State) : (step10 s).phase = .s10 := rfl
@[simp] theorem step10_err (s : State) : (step10 s).err = .ok := rfl
@[simp] theorem step10_errByte (s : State) : (step10 s).errByte = s.errByte := rfl
@[simp] theorem step10_op (s : State) : (step10 s).op = s.op := rfl
@[simp] theorem step10_id (s : State) : (step10 s).id = s.id := rfl
@[simp] theorem step10_instr (s : State) : (step10 s).instr = s.instr := rfl
@[simp] theorem step10_params (s : State) : (step10 s).params = s.params := rfl
@[simp] theorem step10_regAddr (s : State) : (step10 s).regAddr = s.regAddr := rfl
@[simp] theorem step10_rlen (s : State) : (step10 s).rlen = s.rlen := rfl
@[simp] theorem step10_data (s : State) : (step10 s).data = s.data := rfl
@[simp] theorem step10_raw (s : State) : (step10 s).raw = s.raw := rfl
@[simp] theorem step10_comb (s : State) : (step10 s).comb = s.comb := rfl
@[simp] theorem step10_val (s : State) : (step10 s).val = s.val := rfl
@[simp] theorem step10_spec (s : State) : (step10 s).spec = s.spec := rfl
@[simp] theorem step10_bus (s : State) : (step10 s).bus = s.bus := rfl
@[simp] theorem step10_rxq (s : State) : (step10 s).rxq = s.rxq := rfl
@[simp] theorem step10_facades (s : State) : (step10 s).facades = s.facades := rfl
@[simp] theorem step10_devdb (s : State) : (step10 s).devdb = s.devdb := rfl
@[simp] theorem step10_nameSep (s : State) : (step10 s).nameSep = s.nameSep := rfl
@[simp] theorem step10_num (s : State) : (step10 s).num = s.num := rfl
@[simp] theorem step10_port (s : State) : (step10 s).port = s.port := rfl
@[simp] theorem step10_notifying (s : State) : (step10 s).notifying = s.notifying := rfl
@[simp] theorem step10_result (s : State) : (step10 s).result = s.result := rfl
@[simp] theorem step10_line (s : State) : (step10 s).line = s.line := rfl
@[simp] theorem step10_events (s : State) : (step10 s).events = s.events := rfl
@[simp] theorem step10_hwerr (s : State) : (step10 s).hwerr = s.hwerr := rfl
@[simp] theorem step10_diag (s : State) : (step10 s).diag = s.diag := rfl

/-! ### resetBlock -/

@[simp] theorem resetBlock_acc (s : State) : (resetBlock s).acc = s.acc := rfl
@[simp] theorem resetBlock_txbuf (s : State) : (resetBlock s).txbuf = [] := rfl
@[simp] theorem resetBlock_echo (s : State) : (resetBlock s).echo = [] := rfl
@[simp] theorem resetBlock_hdr (s : State) : (resetBlock s).hdr = [] := rfl
@[simp] theorem resetBlock_len (s : State) : (resetBlock s).len = s.len := rfl
@[simp] theorem resetBlock_body (s : State) : (resetBlock s).body = [] := rfl
@[simp] theorem resetBlock_phase (s : State) : (resetBlock s).phase = .idle := rfl
@[simp] theorem resetBlock_err (s : State) : (resetBlock s).err = .ok := rfl
@[simp] theorem resetBlock_errByte (s : State) : (resetBlock s).errByte = 0 := rfl
@[simp] theorem resetBlock_op (s : State) : (resetBlock s).op = s.op := rfl
@[simp] theorem resetBlock_id (s : State) : (resetBlock s).id = s.id := rfl
@[simp] theorem resetBlock_instr (s : State) : (resetBlock s).instr = s.instr := rfl
@[simp] theorem resetBlock_params (s : State) : (resetBlock s).params = s.params := rfl
@[simp] theorem resetBlock_regAddr (s : State) : (resetBlock s).regAddr = s.regAddr := rfl
@[simp] theorem resetBlock_rlen (s : State) : (resetBlock s).rlen = s.rlen := rfl
@[simp] theorem resetBlock_data (s : State) : (resetBlock s).data = s.data := rfl
@[simp] theorem resetBlock_raw (s : State) : (resetBlock s).raw = s.raw := rfl
@[simp] theorem resetBlock_comb (s : State) : (resetBlock s).comb = s.comb := rfl
@[simp] theorem resetBlock_val (s : State) : (resetBlock s).val = s.val := rfl
@[simp] theorem resetBlock_spec (s : State) : (resetBlock s).spec = s.spec := rfl
@[simp] theorem resetBlock_bus (s : State) : (resetBlock s).bus = s.bus := rfl
@[simp] theorem resetBlock_rxq (s : State) : (resetBlock s).rxq = s.rxq := rfl
@[simp] theorem resetBlock_facades (s : State) : (resetBlock s).facades = s.facades.map fun f => { f with hooks := [] } := rfl
@[simp] theorem resetBlock_devdb (s : State) : (resetBlock s).devdb = s.devdb := rfl
@[simp] theorem resetBlock_nameSep (s : State) : (resetBlock s).nameSep = s.nameSep := rfl
@[simp] theorem resetBlock_num (s : State) : (resetBlock s).num = s.num := rfl
@[simp] theorem resetBlock_port (s : State) : (resetBlock s).port = s.port := rfl
@[simp] theorem resetBlock_notifying (s : State) : (resetBlock s).notifying = s.notifying := rfl
@[simp] theorem resetBlock_result (s : State) : (resetBlock s).result = s.result := rfl
@[simp] theorem resetBlock_line (s : State) : (resetBlock s).line = s.line := rfl
@[simp] theorem resetBlock_events (s : State) : (resetBlock s).events = s.events := rfl
@[simp] theorem resetBlock_hwerr (s : State) : (resetBlock s).hwerr = s.hwerr := rfl
@[simp] theorem resetBlock_diag (s : State) : (resetBlock s).diag = s.diag := rfl

/-! ### The hook fan-out -/

theorem foldl_notifyOne (place : Nat) (f : Facade) (hooks : List Hook) (s : State) :
    hooks.foldl (notifyOne place f) s = { s with hwerr := s.hwerr ++ hooks.map (hwErrOf place f) } := by
  induction hooks generalizing s with
  | nil => simp
  | cons h hs ih => rw [List.foldl_cons, ih]; simp [notifyOne]

/-- The fan-out appends one event per subscriber, in registration order, and ends the notification. -/
theorem notifyAll_eq (place : Nat) (f : Facade) (s : State) :
    notifyAll place f s =
      { s with notifying := false, hwerr := s.hwerr ++ f.hooks.map (hwErrOf place f) } := by
  simp [notifyAll, foldl_notifyOne]

/-! ### Building a packet -/

theorem runBuild_bytes (a i : Byte) (p : List Byte) (s : State) : (runBuild a i p s).1 = buildPacketBytes a i p := rfl

theorem runBuild_state (a i : Byte) (p : List Byte) (s : State) :
    (runBuild a i p s).2 = { s with acc := crc16 (packetBody a i p) } := rfl

end Sys2Proof.Machine
end

