-- ==== Sys2Proof/Laws/Ops.lean ====
section
/-! SUPPORT. What each shared operation can do, said once: attempts, the reads, the steps of a transaction, the
operations built on it. -/

namespace Sys2Proof.Machine

/-! ### Attempts -/

@[simp] theorem outcome_ok (s : State) : Attempt.outcome (.ok s) = .next s := rfl
@[simp] theorem outcome_fault (f : Fault) : Attempt.outcome (.error (.fault f)) = .fault f := rfl
@[simp] theorem outcome_refusal (r : Refusal) : Attempt.outcome (.error (.refusal r)) = .refused r := rfl

theorem outcome_next {a : Attempt State} {t : State} (h : a.outcome = .next t) : a = .ok t := by
  rcases a with (f | r) | s
  · simp [Attempt.outcome] at h
  · simp [Attempt.outcome] at h
  · simpa [Attempt.outcome] using h

/-- A sequence of two attempts succeeds only if both do. -/
theorem bind_ok {α β : Type} {x : Attempt α} {f : α → Attempt β} {b : β} (h : (x >>= f) = .ok b) :
    ∃ a, x = .ok a ∧ f a = .ok b := by
  cases x with
  | error e => simp [bind, Except.bind] at h
  | ok a => exact ⟨a, rfl, h⟩

@[simp] theorem checkParams_ok {p : List Byte} : checkParams p = .ok () ↔ p.length ≤ Config.maxParams := by
  unfold checkParams refuse
  split <;> simp_all

theorem checkParams_long {p : List Byte} (h : Config.maxParams < p.length) :
    checkParams p = .error (.refusal .paramsTooLong) := by
  simp [checkParams, refuse, h]

@[simp] theorem checkOpen_ok {s : State} : checkOpen s = .ok () ↔ s.bus.isOpen = true := by
  unfold checkOpen stuck
  split <;> simp_all

/-! ### The transport -/

theorem readLimit_le (n : Nat) (s : State) : readLimit n s ≤ n := by
  unfold readLimit
  split <;> simp

/-- A read's answer and what it leaves are what was pending. -/
theorem rxRead_split (n : Nat) (s : State) : (rxRead n s).1 ++ (rxRead n s).2.rxq = pending s := by simp

theorem rxRead_length (n : Nat) (s : State) : (rxRead n s).1.length ≤ n := by
  have := readLimit_le n s
  simp only [rxRead_got, List.length_take]
  omega

/-! ### The steps of a transaction -/

/-- Step 1 flushes in S1 and nothing else. -/
theorem step1_eq (s : State) : step1 s =
    { s with phase := .s1, rxq := [], line := s.line.tail, events := s.events ++ [(.s1, .flush)] } := rfl

/-- Step 2 writes the built packet in S2. -/
theorem step2_eq (a i : Byte) (p : List Byte) (s : State) : step2 a i p s =
    { s with
      phase := .s2, acc := crc16 (packetBody a i p), txbuf := buildPacketBytes a i p
      rxq := s.rxq ++ (lineNow s).arrives ++ (lineNow s).heard.getD (buildPacketBytes a i p)
      line := s.line.tail, events := s.events ++ [(.s2, .write (buildPacketBytes a i p))] } := rfl

/-- What the steps 3 to 9 leave alone. -/
def KeepsInReceive (s t : State) : Prop :=
  t.txbuf = s.txbuf ∧ t.err = s.err ∧ t.op = s.op ∧ t.id = s.id ∧ t.instr = s.instr ∧ t.params = s.params ∧
    t.regAddr = s.regAddr ∧ t.rlen = s.rlen ∧ t.data = s.data ∧ t.raw = s.raw ∧ t.comb = s.comb ∧ t.val = s.val ∧
    t.spec = s.spec ∧ t.bus = s.bus ∧ t.facades = s.facades ∧ t.devdb = s.devdb ∧ t.nameSep = s.nameSep ∧ t.num = s.num ∧
    t.port = s.port ∧ t.notifying = s.notifying ∧ t.result = s.result ∧ t.hwerr = s.hwerr ∧ t.diag = s.diag

theorem KeepsInReceive.trans {s t u : State} (h : KeepsInReceive s t) (k : KeepsInReceive t u) :
    KeepsInReceive s u := by
  unfold KeepsInReceive at *
  simp_all

/-- The state a step of a transaction ends in, whether it goes on or raises. -/
def TxStep.state : TxStep → State
  | .ok s => s
  | .error (_, s) => s

/-- A checking step in its two forms at once. -/
theorem state_ite {c : Prop} [Decidable c] (e : TxError) (s : State) :
    TxStep.state (if c then .error (e, s) else .ok s) = s := by split <;> rfl

theorem step3_keeps (s : State) : KeepsInReceive s (step3 s).state := by
  simp only [step3, state_ite]; simp [KeepsInReceive]
theorem step4_keeps (s : State) : KeepsInReceive s (step4 s).state := by
  simp only [step4, state_ite]; simp [KeepsInReceive]
theorem step5_keeps (s : State) : KeepsInReceive s (step5 s).state := by
  simp only [step5, state_ite]; simp [KeepsInReceive]
theorem step6_keeps (s : State) : KeepsInReceive s (step6 s).state := by
  simp only [step6, state_ite]; simp [KeepsInReceive]
theorem step7_keeps (s : State) : KeepsInReceive s (step7 s).state := by
  simp only [step7, state_ite]; simp [KeepsInReceive]
theorem step8_keeps (s : State) : KeepsInReceive s (step8 s).state := by
  simp only [step8, state_ite]; simp [KeepsInReceive]
theorem step9_keeps (s : State) : KeepsInReceive s (step9 s).state := by
  simp only [step9, state_ite]; simp [KeepsInReceive]

theorem keeps_bind {s : State} {x : TxStep} {f : State → TxStep} (hx : KeepsInReceive s x.state)
    (hf : ∀ u, KeepsInReceive u (f u).state) : KeepsInReceive s (TxStep.state (x >>= f)) := by
  cases x with
  | error e => exact hx
  | ok u => exact hx.trans (hf u)

/-- Steps 3 to 9 together keep what each keeps. -/
theorem receiveSteps_keeps (s : State) : KeepsInReceive s (receiveSteps s).state :=
  keeps_bind (step3_keeps s) fun u => keeps_bind (step4_keeps u) fun u => keeps_bind (step5_keeps u) fun u =>
    keeps_bind (step6_keeps u) fun u => keeps_bind (step7_keeps u) fun u => keeps_bind (step8_keeps u) step9_keeps

/-- A transaction ends in one of two ways. -/
theorem runTransaction_cases (a i : Byte) (p : List Byte) (s : State) :
    (∃ u, receiveSteps (step2 a i p (step1 s)) = .ok u ∧
      runTransaction a i p s = (.ok (payloadOf u.resp), returnIdle (step10 u))) ∨
    ∃ e u, receiveSteps (step2 a i p (step1 s)) = .error (e, u) ∧
      runTransaction a i p s = (.err e (e.info u.errByte), returnIdle (raiseError e u)) := by
  unfold runTransaction
  rcases receiveSteps (step2 a i p (step1 s)) with ⟨e, u⟩ | u
  · exact .inr ⟨e, u, rfl, rfl⟩
  · exact .inl ⟨u, rfl, rfl⟩

/-- A transaction always ends in IDLE. -/
theorem runTransaction_idle (a i : Byte) (p : List Byte) (s : State) : (runTransaction a i p s).2.phase = .idle := by
  rcases runTransaction_cases a i p s with ⟨u, -, h⟩ | ⟨e, u, -, h⟩ <;> simp [h]

/-! ### The operations built on a transaction -/

/-- TRANSACT's operation succeeds exactly when its parameters fit and the transport is open, and then it is the run. -/
theorem transactOp_eq (a i : Byte) (p : List Byte) (s : State) : transactOp a i p s =
    if Config.maxParams < p.length then .error (.refusal .paramsTooLong)
    else if s.bus.isOpen then .ok (runTransaction a i p (latchRequest a i p s))
    else .error (.fault .transportClosed) := by
  unfold transactOp checkParams checkOpen refuse stuck
  by_cases h : Config.maxParams < p.length <;> by_cases h' : s.bus.isOpen = true <;>
    simp [h, h', bind, Except.bind]

theorem transactOp_ok {a i : Byte} {p : List Byte} {s : State} (hp : p.length ≤ Config.maxParams)
    (ho : s.bus.isOpen = true) : transactOp a i p s = .ok (runTransaction a i p (latchRequest a i p s)) := by
  rw [transactOp_eq, if_neg (by omega), if_pos ho]

theorem pingOp_ok {a : Byte} {s : State} (ho : s.bus.isOpen = true) : pingOp a s =
    .ok ((runTransaction a Config.codePing [] (latchRequest a Config.codePing [] s)).1.model?,
      (runTransaction a Config.codePing [] (latchRequest a Config.codePing [] s)).2) := by
  unfold pingOp
  rw [transactOp_ok (by simp) ho]
  rfl

theorem readOp_ok {a : Byte} {reg num : Word} {s : State} (ho : s.bus.isOpen = true) :
    readOp a reg num s = .ok (
      (runTransaction a Config.codeRead (readParams reg num)
        (latchRequest a Config.codeRead (readParams reg num) { s with regAddr := reg, rlen := num })).1.payload?,
      (runTransaction a Config.codeRead (readParams reg num)
        (latchRequest a Config.codeRead (readParams reg num) { s with regAddr := reg, rlen := num })).2) := by
  unfold readOp
  rw [transactOp_ok (s := { s with regAddr := reg, rlen := num }) (by simp [readParams, Config.maxParams]) ho]
  rfl

theorem writeOp_ok {a : Byte} {reg : Word} {d : List Byte} {s : State} (hd : d.length + 2 ≤ Config.maxParams)
    (ho : s.bus.isOpen = true) :
    writeOp a reg d s = .ok (
      (runTransaction a Config.codeWrite (writeParams reg d)
        (latchRequest a Config.codeWrite (writeParams reg d) { s with regAddr := reg, data := d })).1.payload?,
      (runTransaction a Config.codeWrite (writeParams reg d)
        (latchRequest a Config.codeWrite (writeParams reg d) { s with regAddr := reg, data := d })).2) := by
  unfold writeOp
  rw [transactOp_ok (s := { s with regAddr := reg, data := d }) (by simp [writeParams]; omega) ho]
  rfl

/-! ### Facades -/

theorem facadeAt_ok {place : Nat} {s : State} {f : Facade} (h : s.facades[place]? = some f)
    (hb : f.busRef = s.bus.ident) : facadeAt place s = .ok f := by
  simp [facadeAt, h, hb]

/-- The hooks of a successful transaction fire exactly at the error byte 0x80. -/
theorem fireHooks_eq {e : Byte} (he : e &&& 0x7F = 0) (place : Nat) (f : Facade) (data : List Byte) (s : State) :
    fireHooks place f (e :: data) s = if e = 0x80 then notifyAll place f s else s := by
  have key : ∀ e : Byte, e &&& 0x7F = 0 → (hardwareErrorSet e = true ↔ e = 0x80) := by decide +kernel
  unfold fireHooks
  simp only [List.getD_cons_zero, key e he]

/-! ### A step -/

/-- An idle block runs the request at the head of its port. -/
theorem step_run {s : State} {r : Request} {rest : List Request} (hp : s.port = r :: rest) (hi : s.phase = .idle)
    (hn : s.notifying = false) : step s = runRequest r { s with port := rest } := by
  simp only [step, takeRequest, hp, hn, Bool.false_eq_true, if_false, if_pos hi]

/-- While a transaction runs, a request is held. -/
theorem step_held {s : State} (hi : s.phase ≠ .idle) (hn : s.notifying = false) : step s = .next s := by
  unfold step takeRequest
  cases s.port <;> simp [hi, hn]

/-- All a step that goes on can have done: nothing, with no request waiting or with one held during a transaction;
otherwise the block was idle, and the next request has run. -/
theorem step_next {s t : State} (h : step s = .next t) :
    ((s.port = [] ∨ s.notifying = false ∧ s.phase ≠ .idle) ∧ t = s) ∨ ∃ r rest, s.port = r :: rest ∧ s.notifying = false ∧ s.phase = .idle ∧
      runRequest r { s with port := rest } = .next t := by
  unfold step takeRequest at h
  cases hp : s.port with
  | nil =>
    rw [hp] at h
    cases h
    exact .inl ⟨.inl rfl, rfl⟩
  | cons r rest =>
    rw [hp] at h
    simp only at h
    split at h
    · cases h
    · next hn =>
      split at h
      · next hi => exact .inr ⟨r, rest, rfl, by simpa using hn, hi, h⟩
      · next hi => cases h; exact .inl ⟨.inr ⟨by simpa using hn, hi⟩, rfl⟩

end Sys2Proof.Machine
end

