-- ==== Sys2Proof/Laws/PerInstr.lean ====
section
/-! SUPPORT. The family FirstByte: an instruction's encoding begins with the byte that tells the decoder which it is, the
first byte of the frame marker for a packet and the selector of 30_encoding R95 for a host operation. -/

namespace Sys2Proof.Laws.FirstByte

/-- The first byte of each instruction's encoding, from the opcode table. -/
def expected : Instr → Byte
  | .pktPing _ _ | .pktRead _ _ _ _ | .pktWrite _ _ _ _ _ | .pktStatus _ _ _ _ _ => 0xFF
  | .crc16 _ _ => 0x0
  | .buildPacket _ _ _ => 0x1
  | .transact _ _ _ => 0x2
  | .ping _ => 0x3
  | .read _ _ _ => 0x4
  | .write _ _ _ => 0x5
  | .sendBlind _ _ _ => 0x6
  | .decode _ _ => 0x7
  | .encode _ _ => 0x8
  | .get _ _ => 0x9
  | .set _ _ _ => 0xA
  | .devPing _ => 0xB

def Statement (i : Instr) : Prop := (encode i).head? = some (expected i)

theorem pktPing (id : Byte) (crc : Word) : Statement (.pktPing id crc) := rfl
theorem pktRead (id : Byte) (reg num crc : Word) : Statement (.pktRead id reg num crc) := rfl
theorem pktWrite (id : Byte) (len reg : Word) (d : List Byte) (crc : Word) : Statement (.pktWrite id len reg d crc) := rfl
theorem pktStatus (id : Byte) (len : Word) (e : Byte) (d : List Byte) (crc : Word) :
    Statement (.pktStatus id len e d crc) := rfl
theorem crc16 (b : List Byte) (seed : Option Word) : Statement (.crc16 b seed) := rfl
theorem buildPacket (a i : Byte) (p : List Byte) : Statement (.buildPacket a i p) := rfl
theorem transact (a i : Byte) (p : List Byte) : Statement (.transact a i p) := rfl
theorem ping (a : Byte) : Statement (.ping a) := rfl
theorem read (a : Byte) (reg n : Word) : Statement (.read a reg n) := rfl
theorem write (a : Byte) (reg : Word) (d : List Byte) : Statement (.write a reg d) := rfl
theorem sendBlind (a i : Byte) (p : List Byte) : Statement (.sendBlind a i p) := rfl
theorem decode (b : List Byte) (spec : Option DisplaySpec) : Statement (.decode b spec) := rfl
theorem encode (v : Value) (spec : Option DisplaySpec) : Statement (.encode v spec) := rfl
theorem get (f : Nat) (r : RegSel) : Statement (.get f r) := rfl
theorem set (f : Nat) (r : RegSel) (v : Value) : Statement (.set f r v) := rfl
theorem devPing (f : Nat) : Statement (.devPing f) := rfl

end Sys2Proof.Laws.FirstByte
end

