-- ==== Sys2Proof/Tests/Slice0.lean ====
section
/-! SUPPORT. The model's own tests. Expected values come from 95_test_vectors, whose row is named, or from the rule named;
the words of host operations are written out from the selectors of 30_encoding R95 and the operand coding of log 1.
After them, a witness for the hypotheses of each obligation that has any. -/

namespace Sys2Proof.Tests

-- Many small evaluations: one at a time, since each thread reserves a large stack.
set_option Elab.async false

open Sys2Proof.Machine Sys2Proof.Claims

/-! ### A small state, and views of an outcome -/

/-- A line that echoes exactly and then delivers `reply`. -/
def lineOf (reply : List Byte) : List LineStep := [{}, {}, { arrives := reply }, {}, {}]

/-- The reset state with that line. -/
def heard (reply : List Byte) : State := { State.reset with line := lineOf reply }

/-- The facade of 95_test_vectors 2.6, FID = 1, with two hooks, the registers in their order. -/
def model26 : DeviceModel :=
  { number := 1060, displayName := ['X']
    registerMap := [
      { name := ['G', 'o', 'a', 'l', ' ', 'P', 'o', 's'], address := 0x10, size := 2, access := .readWrite
        display := some { tag := .int, offset := some 5, scale := some 2 } },
      { name := ['L', 'i', 'm', 'i', 't'], address := 0x20, size := 2, access := .readWrite
        display := some { tag := .int, min := some 0, max := some 1023 } },
      { name := ['M', 'o', 'd', 'e', 'l'], address := 0, size := 2, access := .read, display := some { tag := .hex } },
      { name := ['G', 'a', 'i', 'n'], address := 0x50, size := 1, access := .write, display := some { tag := .int } },
      { name := ['N', 'e', 'g'], address := 0x60, size := 1, access := .read
        display := some { tag := .hex, offset := some 5 } }] }

/-- A descriptor for look-ups past the end. -/
def default26 : RegDescriptor :=
  { name := [], address := 0, size := 1, access := .readWrite, display := none }

def facade26 : Facade := { busRef := 0, fid := 1, model := some model26, hooks := [7, 8] }

/-- The reset state with that facade and a line. -/
def onFacade (reply : List Byte) : State := { heard reply with facades := [facade26] }

def nextOf (o : Host.Outcome State Fault Refusal) : Option State :=
  match o with
  | .next s => some s
  | .fault _ => none
  | .refused _ => none

def resultOf (o : Host.Outcome State Fault Refusal) : Option OpResult := (nextOf o).map (·.result)

def refusalOf (o : Host.Outcome State Fault Refusal) : Option Refusal :=
  match o with
  | .next _ => none
  | .fault _ => none
  | .refused r => some r

def faultOf (o : Host.Outcome State Fault Refusal) : Option Fault :=
  match o with
  | .next _ => none
  | .fault f => some f
  | .refused _ => none

/-- The packets an outcome put on the line. -/
def sentOf (o : Host.Outcome State Fault Refusal) : Option (List (List Byte)) :=
  (nextOf o).map fun s => s.events.filterMap fun e =>
    match e.2 with
    | .write b => some b
    | _ => none

/-! ### WellFormed refuses an ill-formed term, one for each check -/

theorem test_wf_ping_checksum :
    ¬ WellFormed (.pktPing 4 0x190A) ∧ WellFormed (.pktPing 4 0x0A19) := by decide +kernel
theorem test_wf_read_checksum :
    ¬ WellFormed (.pktRead 1 0x10 2 0x2711) ∧ WellFormed (.pktRead 1 0x10 2 0x1127) := by decide +kernel
theorem test_wf_write_length :
    ¬ WellFormed (.pktWrite 1 6 1 [] 0xA368) ∧ WellFormed (.pktWrite 1 5 1 [] 0xA368) := by decide +kernel
theorem test_wf_write_checksum : ¬ WellFormed (.pktWrite 1 5 1 [] 0xA369) := by decide +kernel
theorem test_wf_status_length :
    ¬ WellFormed (.pktStatus 1 5 0 [] 0x0CA1) ∧ WellFormed (.pktStatus 1 4 0 [] 0x0CA1) := by decide +kernel
theorem test_wf_status_checksum : ¬ WellFormed (.pktStatus 1 4 1 [] 0x0CA1) := by decide +kernel
theorem test_wf_build_too_long : ¬ WellFormed (.buildPacket 1 3 (List.replicate 65533 0)) := by
  rw [WellFormed, Instr.wf, decide_eq_true_eq, List.length_replicate]; decide
theorem test_wf_transact_too_long : ¬ WellFormed (.transact 1 3 (List.replicate 65533 0)) := by
  rw [WellFormed, Instr.wf, decide_eq_true_eq, List.length_replicate]; decide
theorem test_wf_sendBlind_too_long : ¬ WellFormed (.sendBlind 1 3 (List.replicate 65533 0)) := by
  rw [WellFormed, Instr.wf, decide_eq_true_eq, List.length_replicate]; decide
theorem test_wf_write_too_long : ¬ WellFormed (.write 1 3 (List.replicate 65531 0)) := by
  rw [WellFormed, Instr.wf, decide_eq_true_eq, List.length_replicate]; decide
theorem test_wf_encode_scale :
    ¬ WellFormed (.encode (.int 5) (some { tag := .int, scale := some 0 })) := by decide +kernel
theorem test_wf_encode_bounds :
    ¬ WellFormed (.encode (.int 5) (some { tag := .int, min := some 10, max := some 5 })) := by decide +kernel
theorem test_wf_encode_kind :
    ¬ WellFormed (.encode (.truth true) (some { tag := .int })) ∧ ¬ WellFormed (.encode (.int 1) none) := by
  decide +kernel

/-! ### Decoding: each row's word, written out -/

/-- An unknown type tag of the worked examples (R173). -/
def angle : OtherTag := ⟨['a', 'n', 'g', 'l', 'e'], by decide⟩

/-- R31, R96: a literal tag spelt out as an unknown one is no operand; another tag is. (The coding is log 1's: tag 5 and
three bytes a character.) -/
theorem test_decode_literal_tag :
    decodeCommand ([0x07, 0x00, 0x01, 0x05] ++ putText ['i', 'n', 't'] ++ [0, 0, 0, 0]) = .error .badTag ∧
    decodeCommand ([0x07, 0x00, 0x01, 0x05] ++ putText ['a', 'n', 'g', 'l', 'e'] ++ [0, 0, 0, 0]) =
      .ok (.decode [] (some { tag := .unknown angle })) := by decide +kernel

/-- 1.2: `build_packet(0x04, 0x01, [])`. -/
theorem test_decode_pktPing :
    decodeCommand [0xFF, 0xFF, 0xFD, 0x00, 0x04, 0x03, 0x00, 0x01, 0x19, 0x0A] = .ok (.pktPing 0x04 0x0A19) := by decide
/-- 2.2: `BUILD_PACKET(0x01, 0x02, [10 00 02 00])`. -/
theorem test_decode_pktRead :
    decodeCommand [0xFF, 0xFF, 0xFD, 0x00, 0x01, 0x07, 0x00, 0x02, 0x10, 0x00, 0x02, 0x00, 0x27, 0x11] =
      .ok (.pktRead 0x01 0x0010 2 0x1127) := by decide
/-- 2.2: `BUILD_PACKET(0x01, 0x03, [10 00 0A 00])`. -/
theorem test_decode_pktWrite :
    decodeCommand [0xFF, 0xFF, 0xFD, 0x00, 0x01, 0x07, 0x00, 0x03, 0x10, 0x00, 0x0A, 0x00, 0x5F, 0x21] =
      .ok (.pktWrite 0x01 7 0x0010 [0x0A, 0x00] 0x215F) := by decide
/-- 2.2: `BUILD_PACKET(0x05, 0x55, [00 24 04 26])`. -/
theorem test_decode_pktStatus :
    decodeCommand [0xFF, 0xFF, 0xFD, 0x00, 0x05, 0x07, 0x00, 0x55, 0x00, 0x24, 0x04, 0x26, 0xD5, 0x1F] =
      .ok (.pktStatus 0x05 7 0x00 [0x24, 0x04, 0x26] 0x1FD5) := by decide
theorem test_decode_crc16 :
    decodeCommand [0x00, 0x01, 0xAB, 0x01, 0xCD, 0x00, 0x01, 0x34, 0x12] =
      .ok (.crc16 [0xAB, 0xCD] (some 0x1234)) := by decide
theorem test_decode_buildPacket :
    decodeCommand [0x01, 0x04, 0x55, 0x01, 0x07, 0x00] = .ok (.buildPacket 0x04 0x55 [0x07]) := by decide
theorem test_decode_transact : decodeCommand [0x02, 0xFE, 0x08, 0x00] = .ok (.transact 0xFE 0x08 []) := by decide
theorem test_decode_ping : decodeCommand [0x03, 0x05] = .ok (.ping 0x05) := by decide
theorem test_decode_read :
    decodeCommand [0x04, 0x01, 0x10, 0x20, 0x02, 0x03] = .ok (.read 0x01 0x2010 0x0302) := by decide
theorem test_decode_write :
    decodeCommand [0x05, 0x01, 0x10, 0x20, 0x01, 0x0A, 0x01, 0x0B, 0x00] =
      .ok (.write 0x01 0x2010 [0x0A, 0x0B]) := by decide
theorem test_decode_sendBlind : decodeCommand [0x06, 0x01, 0x08, 0x00] = .ok (.sendBlind 0x01 0x08 []) := by decide
/-- `decode([10], int, offset 5)`: sign mark 00, numerator 5, denominator less one 0. -/
theorem test_decode_decode :
    decodeCommand [0x07, 0x01, 0x0A, 0x00, 0x01, 0x01, 0x01, 0x00, 0x01, 0x05, 0x00, 0x00, 0x00, 0x00, 0x00] =
      .ok (.decode [0x0A] (some { tag := .int, offset := some 5 })) := by decide +kernel
/-- `encode(-3, int)`: sign mark 01, magnitude 3. -/
theorem test_decode_encode :
    decodeCommand [0x08, 0x01, 0x01, 0x01, 0x03, 0x00, 0x01, 0x01, 0x00, 0x00, 0x00, 0x00] =
      .ok (.encode (.int (-3)) (some { tag := .int })) := by decide +kernel
/-- Facade 2, register named "A" (U+0041). -/
theorem test_decode_get :
    decodeCommand [0x09, 0x01, 0x02, 0x00, 0x01, 0x01, 0x41, 0x01, 0x00, 0x01, 0x00, 0x00] =
      .ok (.get 2 (.name ['A'])) := by decide +kernel
/-- Facade 0, register of index 3, value 1/2. -/
theorem test_decode_set :
    decodeCommand [0x0A, 0x00, 0x00, 0x01, 0x03, 0x00, 0x02, 0x00, 0x01, 0x01, 0x00, 0x01, 0x01, 0x00] =
      .ok (.set 0 (.index 3) (.rat (1 / 2))) := by decide +kernel
theorem test_decode_devPing : decodeCommand [0x0B, 0x01, 0x01, 0x00] = .ok (.devPing 1) := by decide
/-- R95: selectors 0xC to 0xF; R88, R102: a code and a length field of no row; R76: a marker that is none. -/
theorem test_decode_rejects :
    decodeCommand [0x0C] = .error .unassignedSelector ∧ decodeCommand [0x0F, 0x00] = .error .unassignedSelector ∧
    decodeCommand [0x10] = .error .noSuchSelector ∧
    decodeCommand [0xFF, 0xFF, 0xFD, 0x00, 0x01, 0x03, 0x00, 0x08, 0x2F, 0x4E] = .error .noSuchPacket ∧
    decodeCommand [0xFF, 0xFF, 0xFD, 0x00, 0x01, 0x04, 0x00, 0x01, 0x19, 0x4E] = .error .noSuchPacket ∧
    decodeCommand [0xFF, 0xFD, 0x00, 0x01, 0x04, 0x00, 0x55, 0x00, 0xA1, 0x0C] = .error .badMarker ∧
    decodeCommand [0x03] = .error .truncated ∧ decodeCommand [0x03, 0x05, 0x01] = .error .trailingBytes ∧
    decodeCommand [] = .error .truncated := by decide
theorem test_encode_packet :
    encode (.pktWrite 0x01 5 0x0001 [] 0xA368) =
      [0xFF, 0xFF, 0xFD, 0x00, 0x01, 0x05, 0x00, 0x03, 0x01, 0x00, 0x68, 0xA3] := by decide

/-- R102: a row's match, under either reading of its digits, is the row's packet; a host operation's its selector. -/
theorem test_table_words :
    decodeTableWord 64 0xFFFFFD0000030001 = some (.pktPing 0 0) ∧
    decodeTableWord 64 0x0100030000FDFFFF = some (.pktPing 0 0) ∧
    decodeTableWord 64 0xFFFFFD0000070002 = some (.pktRead 0 0 0 0) ∧
    decodeTableWord 64 0xFFFFFD0000000003 = some (.pktWrite 0 0 0 [] 0) ∧
    decodeTableWord 64 0xFFFFFD0000000055 = some (.pktStatus 0 0 0 [] 0) ∧
    decodeTableWord 8 0x0 = some (.crc16 [] none) ∧ decodeTableWord 8 0x3 = some (.ping 0) ∧
    decodeTableWord 8 0xB = some (.devPing 0) ∧ decodeTableWord 8 0xC = none := by decide
/-- The very next step runs the word's instruction. -/
theorem test_fetch_word :
    (nextOf (step (State.reset.withFetchWord 8 0x3))).map (·.op) = some .ping ∧
    resultOf (step (State.reset.withFetchWord 8 0x0)) = some (.word 0) := by decide +kernel

/-! ### The CRC engine and the packet codec -/

/-- 1.1 and 2.1. -/
theorem test_crc16 :
    [[], [1, 2, 3, 4], [230, 15, 67], [0xFF], [0x80], [0, 1, 2, 3, 4]].map crc16 =
      [0, 40499, 11890, 0x0202, 0x8303, 0x9E33] := by decide +kernel
/-- 2.1: ASCII "123456789"; R107: the seed is ignored. -/
theorem test_crc16_exec :
    resultOf (exec (.crc16 [0x31, 0x32, 0x33, 0x34, 0x35, 0x36, 0x37, 0x38, 0x39] (some 0xFFFF)) State.reset) =
      some (.word 0xFEE8) := by decide +kernel
/-- 2.1: the checksum bytes swapped, a byte changed. -/
theorem test_checker :
    crcOk [0xFF, 0xFF, 0xFD, 0x00, 0x01, 0x05, 0x00, 0x03, 0x01, 0x00, 0x68, 0xA3] = true ∧
    crcOk [0xFF, 0xFF, 0xFD, 0x00, 0x01, 0x05, 0x00, 0x03, 0x01, 0x00, 0xA3, 0x68] = false ∧
    crcOk [0xFF, 0xFF, 0xFD, 0x00, 0x01, 0x05, 0x00, 0x03, 0x01, 0x01, 0x68, 0xA3] = false := by decide +kernel
/-- 1.2: `build_packet(0x01, 0x03, [0x01, 0x00])`. -/
theorem test_buildPacket :
    resultOf (exec (.buildPacket 0x01 0x03 [0x01, 0x00]) State.reset) =
      some (.bytes [0xFF, 0xFF, 0xFD, 0x00, 0x01, 0x05, 0x00, 0x03, 0x01, 0x00, 0x68, 0xA3]) := by decide +kernel
/-- 2.2: marker bytes in the parameters are not escaped. -/
theorem test_buildPacket_no_escape :
    resultOf (exec (.buildPacket 0x01 0x03 [0xFF, 0xFF, 0xFD]) State.reset) =
      some (.bytes [0xFF, 0xFF, 0xFD, 0x00, 0x01, 0x06, 0x00, 0x03, 0xFF, 0xFF, 0xFD, 0xD3, 0x6F]) := by decide +kernel
/-- 2.2, field extraction. -/
theorem test_pktStatus :
    resultOf (exec (.pktStatus 0x05 7 0x00 [0x24, 0x04, 0x26] 0x1FD5) State.reset) =
      some (.fields
        { marker := [0xFF, 0xFF, 0xFD, 0x00], id := 0x05, length := 7
          covered := [0xFF, 0xFF, 0xFD, 0x00, 0x05, 0x07, 0x00, 0x55, 0x00, 0x24, 0x04, 0x26], checksum := 0x1FD5
          instruction := some 0x55, errByte := some 0x00
          payload := some [0x00, 0x24, 0x04, 0x26], data := some [0x24, 0x04, 0x26] }) := by decide +kernel
/-- R121: with LEN = 2 the instruction and the error byte are defined, the payload is not; RESP is nine bytes. -/
theorem test_pktStatus_short :
    resultOf (exec (.pktStatus 0x05 2 0x42 [] 0x1FD5) State.reset) =
      some (.fields
        { marker := [0xFF, 0xFF, 0xFD, 0x00], id := 0x05, length := 2
          covered := [0xFF, 0xFF, 0xFD, 0x00, 0x05, 0x02, 0x00], checksum := 0x4255
          instruction := some 0x55, errByte := some 0x42, payload := none, data := none }) := by decide +kernel

/-! ### The bus transport -/

/-- T1: two stale bytes are flushed. -/
theorem test_transact_ok :
    (nextOf (exec (.transact 1 0x02 [0x10, 0x00, 0x02, 0x00])
      { heard [0xFF, 0xFF, 0xFD, 0x00, 0x01, 0x06, 0x00, 0x55, 0x00, 0x0A, 0x00, 0xC6, 0xE7] with
        rxq := [0xDE, 0xAD] })).map (fun s => (s.result, s.err, s.rxq)) =
      some (.transacted (.ok [0x00, 0x0A, 0x00]), .ok, []) := by decide +kernel
/-- T16: error byte 0x81 fails and is carried whole. -/
theorem test_transact_servo_error :
    (nextOf (exec (.transact 1 0x01 [])
      (heard [0xFF, 0xFF, 0xFD, 0x00, 0x01, 0x04, 0x00, 0x55, 0x81, 0xA7, 0x0F]))).map
        (fun s => (s.result, s.err, s.errByte)) =
      some (.transacted (.err .servoReportedError (some 0x81)), .failed .servoReportedError, 0x81) := by decide +kernel
/-- 2.3, PING: the reply with two further data bytes. -/
theorem test_ping :
    resultOf (exec (.ping 5) (heard [0xFF, 0xFF, 0xFD, 0x00, 0x05, 0x07, 0x00, 0x55, 0x00, 0x24, 0x04, 0x26, 0xD5, 0x1F])) =
      some (.model (some 1060)) := by decide +kernel
/-- 2.3, PING: a payload shorter than 3. -/
theorem test_ping_short :
    resultOf (exec (.ping 5) (heard [0xFF, 0xFF, 0xFD, 0x00, 0x05, 0x05, 0x00, 0x55, 0x00, 0x24, 0x8D, 0xC1])) =
      some (.model none) := by decide +kernel
/-- P1, step 2, as a packet. -/
theorem test_pktPing :
    sentOf (exec (.pktPing 5 0x9E1A) (heard [])) =
      some [[0xFF, 0xFF, 0xFD, 0x00, 0x05, 0x03, 0x00, 0x01, 0x1A, 0x9E]] := by decide +kernel
/-- 2.3, READ: two more data bytes than asked. -/
theorem test_read :
    resultOf (exec (.read 1 0x0010 2)
      (heard [0xFF, 0xFF, 0xFD, 0x00, 0x01, 0x08, 0x00, 0x55, 0x00, 0x0A, 0x00, 0x00, 0x00, 0xBF, 0x30])) =
      some (.payload (some [0x00, 0x0A, 0x00, 0x00, 0x00])) := by decide +kernel
/-- 2.3: `READ(1, 0x0084, 4)` sends. -/
theorem test_pktRead :
    sentOf (exec (.pktRead 1 0x0084 4 0x151D) (heard [])) =
      some [[0xFF, 0xFF, 0xFD, 0x00, 0x01, 0x07, 0x00, 0x02, 0x84, 0x00, 0x04, 0x00, 0x1D, 0x15]] := by decide +kernel
/-- 2.3, WRITE: no data bytes is legal. -/
theorem test_write_empty :
    sentOf (exec (.write 1 0x0010 []) (heard [])) =
      some [[0xFF, 0xFF, 0xFD, 0x00, 0x01, 0x05, 0x00, 0x03, 0x10, 0x00, 0x68, 0xC5]] := by decide +kernel
/-- 2.3, WRITE. -/
theorem test_pktWrite :
    resultOf (exec (.pktWrite 1 7 0x0010 [0x0A, 0x00] 0x215F)
      (heard [0xFF, 0xFF, 0xFD, 0x00, 0x01, 0x04, 0x00, 0x55, 0x00, 0xA1, 0x0C])) =
      some (.payload (some [0x00])) := by decide +kernel
/-- 2.3, SEND_BLIND: one write; the echo stays. -/
theorem test_sendBlind :
    (nextOf (exec (.sendBlind 1 0x08 []) State.reset)).map (fun s => (s.rxq, s.events, s.err)) =
      some ([0xFF, 0xFF, 0xFD, 0x00, 0x01, 0x03, 0x00, 0x08, 0x2F, 0x4E],
        [(.s2, .write [0xFF, 0xFF, 0xFD, 0x00, 0x01, 0x03, 0x00, 0x08, 0x2F, 0x4E])], .ok) := by decide +kernel

/-! ### The register data model -/

/-- 2.4: offset before scale; -1/2 truncated toward zero; a negative result; 123.45. -/
theorem test_decode_numeric :
    [({ tag := .int, offset := some 5, scale := some 2 }, [10]), ({ tag := .int, offset := some 4, scale := some (1 / 2) }, [3]),
      ({ tag := .int, offset := some 5 }, [3]), ({ tag := .float, scale := some (1 / 100) }, [0x39, 0x30])].map
        (fun q : DisplaySpec × List Byte => resultOf (exec (.decode q.2 (some q.1)) State.reset)) =
      [some (.value (.int 10)), some (.value (.int 0)), some (.value (.int (-2))),
        some (.value (.rat (2469 / 20)))] := by decide +kernel
/-- 2.4: hex is lowercase, high byte first; "0"; refused. -/
theorem test_decode_hex :
    [[0xAB, 0xCD], []].map (fun b => resultOf (exec (.decode b (some { tag := .hex })) State.reset)) =
      [some (.value (.text ['c', 'd', 'a', 'b'])), some (.value (.text ['0']))] ∧
    refusalOf (exec (.decode [3] (some { tag := .hex, scale := some (1 / 2) })) State.reset) =
      some .hexOfNonNatural := by decide +kernel
/-- 2.5: the clamp in raw units; 12.345 truncated; 258 low byte first; leading zeros of a string. -/
theorem test_encode_numeric :
    [(Value.int 100, ({ tag := .int, scale := some 2, max := some 30 } : DisplaySpec)),
      (.rat (2469 / 200), { tag := .float, scale := some (1 / 100) }), (.int 258, { tag := .int }),
      (.text ['0', '0', 'F', 'f'], { tag := .hex }), (.rat (-1 / 2), { tag := .float })].map
        (fun q => resultOf (exec (.encode q.1 (some q.2)) State.reset)) =
      [some (.bytes [0x1E]), some (.bytes [0xD2, 0x04]), some (.bytes [0x02, 0x01]), some (.bytes [0xFF]),
        some (.bytes [])] := by decide +kernel
/-- 2.5, the refusals. -/
theorem test_encode_refused :
    [(Value.rat (7 / 2), ({ tag := .int } : DisplaySpec)), (.text ['0', 'x', 'f'], { tag := .hex }), (.int (-1), { tag := .int }),
      (.int 5, { tag := .int, scale := some 0 }), (.int 5, { tag := .int, min := some 10, max := some 5 })].map
        (fun q => refusalOf (exec (.encode q.1 (some q.2)) State.reset)) =
      [some .intOperandNotIntegral, some .badHexString, some .negativeRaw, some .zeroScale, some .minAboveMax] := by
  decide +kernel

/-! ### The device facade -/

/-- F2: by a name that normalises alike; one HWERR for each hook, in order. -/
theorem test_get :
    (nextOf (exec (.get 0 (.name ['g', 'O', 'a', 'l', '_', 'p', 'o', 's']))
      (onFacade [0xFF, 0xFF, 0xFD, 0x00, 0x01, 0x06, 0x00, 0x55, 0x80, 0x0A, 0x00, 0xC5, 0x6D]))).map
        (fun s => (s.result, s.hwerr.map (·.hook))) =
      some (.gotValue (some (.int 10)), [7, 8]) := by decide +kernel
/-- F4: no reply. -/
theorem test_get_absent :
    (nextOf (exec (.get 0 (.index 0)) (onFacade []))).map (fun s => (s.result, s.diag, s.hwerr)) =
      some (.gotValue none, [.transactionError .shortHeader none, .getFailed], []) := by decide +kernel
/-- F7: 5000 clamped to 1023. -/
theorem test_set_clamps :
    sentOf (exec (.set 0 (.index 1) (.int 5000)) (onFacade [])) =
      some [[0xFF, 0xFF, 0xFD, 0x00, 0x01, 0x07, 0x00, 0x03, 0x20, 0x00, 0xFF, 0x03, 0x50, 0x5F]] := by decide +kernel
/-- F5 and F11: true; the data is padded; the hooks fire at 0x80. -/
theorem test_set_true :
    (nextOf (exec (.set 0 (.index 0) (.int 10))
      (onFacade [0xFF, 0xFF, 0xFD, 0x00, 0x01, 0x04, 0x00, 0x55, 0x80, 0xA2, 0x8F]))).map
        (fun s => (s.result, s.data, s.hwerr.map (·.hook))) =
      some (.flag true, [0x0A, 0x00], [7, 8]) := by decide +kernel
/-- F12 to F14. -/
theorem test_facade_refused :
    refusalOf (exec (.set 0 (.index 2) (.text ['1'])) (onFacade [])) = some .noSetter ∧
    refusalOf (exec (.get 0 (.name ['S', 'p'])) (onFacade [])) = some .unselectableRegister ∧
    refusalOf (exec (.set 0 (.index 3) (.int 258)) (onFacade [])) = some .valueTooWide ∧
    refusalOf (exec (.get 0 (.index 3)) (onFacade [])) = some .noGetter ∧
    refusalOf (exec (.get 0 (.index 0)) State.reset) = some .unselectableRegister := by decide +kernel
/-- R203: a model number of 0 is present; no reply is not; no hook fires. -/
theorem test_devPing :
    (nextOf (exec (.devPing 0) (onFacade (statusReply 1 0x80 [0, 0])))).map (fun s => (s.result, s.hwerr)) =
      some (.flag true, []) ∧
    resultOf (exec (.devPing 0) (onFacade [])) = some (.flag false) := by decide +kernel
/-- R248: a reset empties HOOKS and clears ERR. R66: a request during a transaction is held. -/
theorem test_reset_and_held :
    (nextOf (step { onFacade [] with port := [.reset], err := .failed .shortHeader, errByte := 0x80 })).map
      (fun s => (s.facades.map (·.hooks), s.err, s.errByte, s.port)) = some ([[]], .ok, 0, []) ∧
    (nextOf (step { State.reset with port := [.command [0x03, 0x05]], phase := .s4 })).map (·.port) =
      some [.command [0x03, 0x05]] := by decide +kernel
/-- R205, R207, R208, R253: the host's other actions. -/
theorem test_host_actions :
    (nextOf (step { State.reset with port := [.registerHook 0 9] })).map (fun s => s.facades.map (·.hooks)) =
      some [[9]] ∧
    (nextOf (step { State.reset with port := [.createFacade 3 (some 1060)], devdb := [model26] })).map
      (fun s => (s.facades.getD 1 facade26).model) = some (some model26) ∧
    (nextOf (step { State.reset with port := [.closeTransport] })).map (·.bus.isOpen) = some false ∧
    faultOf (step { State.reset with
      port := [.command [0x03, 0x05]], bus := { State.reset.bus with isOpen := false } }) = some .transportClosed ∧
    refusalOf (step { State.reset with port := [.command [0x03, 0x05]], notifying := true }) =
      some .reentrantRequest := by decide +kernel

/-! ### Witnesses: states and operands that meet the hypotheses of the obligations -/

/-- A line that answers, for any reply, with `tail` behind it and `late` after that. -/
def answering (reply tail late : List Byte) : List LineStep :=
  [{ arrives := [0xEE] }, {}, { arrives := reply ++ tail }, {}, { arrives := late }]

theorem lineAnswers_answering (reply tail late : List Byte) :
    LineAnswers reply tail late (answering reply tail late) :=
  ⟨_, _, _, _, _, _, rfl, rfl, rfl, by simp, rfl, rfl, rfl, rfl⟩

/-- The facade's state with a line that answers. -/
def answered (reply tail late : List Byte) : State :=
  { State.reset with facades := [facade26], line := answering reply tail late }

/-- CrcIsLinear: 2.1's pair, and the boundary of two empty sequences. -/
theorem witness_CrcIsLinear :
    ([0x12, 0x34, 0x56] : List Byte).length = ([0xAB, 0xCD, 0xEF] : List Byte).length ∧
      crc16 [0x12, 0x34, 0x56] = 0x389F ∧ crc16 [0xAB, 0xCD, 0xEF] = 0xA472 ∧ crc16 [0xB9, 0xF9, 0xB9] = 0x9CED := by
  decide +kernel
/-- CheckerRecomputes: the shortest sequence, two bytes. -/
theorem witness_CheckerRecomputes : 2 ≤ ([0, 0] : List Byte).length ∧ crcOk [0, 0] = true := by decide +kernel
/-- BuiltPacketsKeepInvariants, TransactReportsFirstFailure, SendBlindOnlyWrites: the longest parameters, an open bus. -/
theorem witness_longest_parameters :
    (List.replicate 65532 (0 : Byte)).length ≤ 65532 ∧ State.reset.bus.isOpen = true := by
  rw [List.length_replicate]; decide
/-- OverlongParametersAreRefused: one byte more, for either bound. -/
theorem witness_OverlongParametersAreRefused :
    65532 < (List.replicate 65533 (0 : Byte)).length ∧ 65530 < (List.replicate 65531 (0 : Byte)).length := by
  rw [List.length_replicate, List.length_replicate]; decide
/-- StatusPacketFields: no data and three data bytes; the lengths on either side of each "defined when". -/
theorem witness_StatusPacketFields :
    ([0, 1, 2, 3, 4, 7] : List Word).map (·.toNat - 4) = [0, 0, 0, 0, 0, 3] ∧
    WellFormed (.pktStatus 1 4 0x00 [] 0x0CA1) ∧ WellFormed (.pktStatus 5 7 0x00 [0x24, 0x04, 0x26] 0x1FD5) := by
  decide +kernel
/-- ReadsReturnPrefixes: a read that the line does not limit. -/
theorem witness_ReadsReturnPrefixes : (State.reset.line.headD {}).limit = none := by decide
/-- TransactReturnsTheReply, PingReturnsModelNumber, ReadReturnsPayload, WriteSendsData: both error bytes that pass; bytes
before and after the reply; the shortest and the longest data. -/
theorem witness_answered_transaction :
    (answered (statusReply 1 0x80 [0x0A, 0x00]) [0x99] [0x98]).bus.isOpen = true ∧
      (0x80 : Byte) &&& 0x7F = 0 ∧ (0x00 : Byte) &&& 0x7F = 0 ∧
      (List.replicate 65531 (0 : Byte)).length ≤ 65531 ∧ (List.replicate 65530 (0 : Byte)).length ≤ 65530 ∧
      LineAnswers (statusReply 1 0x80 [0x0A, 0x00]) [0x99] [0x98]
        (answered (statusReply 1 0x80 [0x0A, 0x00]) [0x99] [0x98]).line ∧
      LineAnswers (statusReply 1 0x00 []) [] [] (answered (statusReply 1 0x00 []) [] []).line := by
  rw [List.length_replicate, List.length_replicate]
  exact ⟨rfl, rfl, rfl, by decide, by decide, lineAnswers_answering _ _ _, lineAnswers_answering _ _ _⟩
/-- InstructionPacketsSendThemselves: one packet of each code, on a quiet line. -/
theorem witness_InstructionPacketsSendThemselves :
    WellFormed (.pktPing 4 0x0A19) ∧ (nextOf (exec (.pktPing 4 0x0A19) State.reset)).isSome = true ∧
    WellFormed (.pktRead 1 0x10 2 0x1127) ∧ (nextOf (exec (.pktRead 1 0x10 2 0x1127) State.reset)).isSome = true ∧
    WellFormed (.pktWrite 1 5 1 [] 0xA368) ∧ (nextOf (exec (.pktWrite 1 5 1 [] 0xA368) State.reset)).isSome = true := by
  decide +kernel
/-- EveryFailureIsAbsent, FacadeReportsFailure: no reply fails each request's exchange. -/
theorem witness_EveryFailureIsAbsent :
    State.reset.bus.isOpen = true ∧
    verdict (buildPacketBytes 4 0x01 []) (exchange (buildPacketBytes 4 0x01 []) State.reset.line) = some .shortHeader ∧
    verdict (buildPacketBytes 4 0x02 (le16 0x10 ++ le16 2))
      (exchange (buildPacketBytes 4 0x02 (le16 0x10 ++ le16 2)) State.reset.line) = some .shortHeader ∧
    verdict (buildPacketBytes 4 0x03 (le16 0x10 ++ []))
      (exchange (buildPacketBytes 4 0x03 (le16 0x10 ++ [])) State.reset.line) = some .shortHeader := by decide +kernel
/-- The verdicts, one reply for each: T2, T4, T6, T8 (two bytes missing), T9, T10, T14, T17. -/
theorem witness_every_verdict :
    [[{}, { heard := some [0xFF] }], lineOf [], lineOf [0xFF, 0xFF, 0xFD, 0x00, 0x02, 0x04, 0x00, 0x55, 0x00, 0x29, 0x0C],
      lineOf [0xFF, 0xFF, 0xFD, 0x00, 0x01, 0x04, 0x00, 0x55, 0x00], lineOf [0xFF, 0xFF, 0xFD, 0x00, 0x01, 0x00, 0x00],
      lineOf [0xFF, 0xFF, 0xFD, 0x00, 0x01, 0x05, 0x00, 0x02, 0x00, 0x00, 0x7C, 0xA5],
      lineOf [0xFF, 0xFF, 0xFD, 0x00, 0x01, 0x04, 0x00, 0x55, 0x01, 0xA4, 0x8C],
      lineOf [0xFF, 0xFF, 0xFD, 0x00, 0x01, 0x04, 0x00, 0x55, 0x80, 0xA2, 0x8F]].map
        (fun l : List LineStep => verdict (buildPacketBytes 1 0x01 []) (exchange (buildPacketBytes 1 0x01 []) l)) =
      [some .transmissionMismatch, some .shortHeader, some .headerMismatch, some .incompletePacket, some .badChecksum,
        some .notAStatusPacket, some .servoReportedError, none] := by decide +kernel
/-- EchoMismatchConsumesNothingMore: T2's corrupted echo, and an echo cut short. -/
theorem witness_EchoMismatchConsumesNothingMore :
    (exchange (buildPacketBytes 1 0x01 [])
      [{}, { heard := some [0xFF, 0xFF, 0xFD, 0x00, 0x03, 0x03, 0x00, 0x01, 0x19, 0x4E] }]).echo ≠
        buildPacketBytes 1 0x01 [] ∧
    (exchange (buildPacketBytes 1 0x01 []) [{}, { heard := some [] }]).echo ≠ buildPacketBytes 1 0x01 [] := by
  decide +kernel
/-- OneOperationOnePacket, OperationsKeepConfiguration: instructions that complete at reset. -/
theorem witness_exec_completes :
    [Instr.crc16 [] none, .buildPacket 0 0 [], .sendBlind 1 8 [], .ping 5, .transact 1 2 [], .devPing 0,
      .decode [] none].map (fun i => (nextOf (exec i State.reset)).isSome) = List.replicate 7 true := by decide +kernel
theorem witness_StaleBytesDoNotMatter : runsTransaction (.get 0 (.index 0)) = true := by decide
/-- ClosedTransportHasNoStep: a bus whose transport has closed, the longest parameters and data. -/
theorem witness_ClosedTransportHasNoStep :
    ({ State.reset with bus := { ident := 0, transport := 0, isOpen := false } } : State).bus.isOpen = false ∧
      (List.replicate 65532 (0 : Byte)).length ≤ 65532 ∧ (List.replicate 65530 (0 : Byte)).length ≤ 65530 := by
  rw [List.length_replicate, List.length_replicate]; decide
/-- DecodeAppliesOffsetThenScale's three clauses; DecodeIntTruncates at -1/2 (its type alone is assumed). -/
theorem witness_DecodeAppliesOffsetThenScale :
    ({ tag := .float } : DisplaySpec).tag = .float ∧ ({ tag := .bool } : DisplaySpec).tag = .bool ∧
      (⌊engineering .exact { tag := .int, offset := some 5, scale := some 2 } [10]⌋ : Rat) =
        engineering .exact { tag := .int, offset := some 5, scale := some 2 } [10] := by decide +kernel
/-- DecodeAppliesOffsetThenScale, EncodeInvertsAndClamps, EncodeInvertsDecode: what the exact NUM of reset represents. -/
theorem witness_Represents : State.reset.num = .exact ∧ Represents .exact [0, 1, -1 / 2, 65536 / 3] :=
  ⟨rfl, represents_exact _⟩
theorem witness_DecodeIntTruncates :
    engineering .exact { tag := .int, offset := some 4, scale := some (1 / 2) } [3] = -1 / 2 := by decide +kernel
/-- DecodeHexSpellsTheNumber: 1, the least, and 0xCDAB. -/
theorem witness_DecodeHexSpellsTheNumber :
    engineering .exact { tag := .hex } [1] = ((1 : Nat) : Rat) ∧ engineering .exact { tag := .hex } [0xAB, 0xCD] = ((0xCDAB : Nat) : Rat) := by
  decide +kernel
/-- DecodeHexCorners: each of its three clauses. -/
theorem witness_DecodeHexCorners :
    engineering .exact { tag := .hex } [] = 0 ∧ engineering .exact { tag := .hex, offset := some 5 } [3] < 0 ∧
      (⌊engineering .exact { tag := .hex, scale := some (1 / 2) } [3]⌋ : Rat) ≠
        engineering .exact { tag := .hex, scale := some (1 / 2) } [3] := by decide +kernel
/-- DecodePassesBytesThrough, EncodePassesBytesThrough: the two tags beside absence. -/
theorem witness_passthrough :
    ({ tag := .bytes } : DisplaySpec).tag = .bytes ∧
      ({ tag := .unknown angle } : DisplaySpec).tag = .unknown angle := by decide
/-- DecodeDoesNotClamp: a specification that answers and one that is refused. -/
theorem witness_DecodeDoesNotClamp :
    (nextOf (exec (.decode [200] (some { tag := .int, max := some 100 })) State.reset)).isSome = true ∧
      refusalOf (exec (.decode [3] (some { tag := .hex, offset := some 5 })) State.reset) = some .hexOfNonNatural := by
  decide +kernel
/-- EncodeInvertsAndClamps, EncodeEmitsMinimalBytes: 1.6's clamp after the offset; min = max; a raw number above -1 that
truncates to zero; each kind of operand. -/
theorem witness_EncodeEmitsMinimalBytes :
    ({ tag := .int, offset := some 5, max := some 8 } : DisplaySpec).scale ≠ some 0 ∧
      rawNumber .exact { tag := .int, offset := some 5, max := some 8 } 5 = ((8 : Nat) : Rat) ∧
      rawNumber .exact { tag := .int, min := some 7, max := some 7 } 7 = ((7 : Nat) : Rat) ∧ (7 : Rat) ≤ 7 ∧
      -1 < rawNumber .exact { tag := .float } (-1 / 2) := by decide +kernel
theorem witness_Denotes :
    Denotes .int (.int 5) 5 ∧ Denotes .int (.rat 5) 5 ∧ Denotes .float (.int 5) 5 ∧ Denotes .float (.rat (1 / 2)) (1 / 2) ∧
      Denotes .hex (.text ['f', 'E']) (numeralValue ['f', 'E']) ∧ Denotes .bool (.truth true) 1 ∧
      Denotes .bool (.truth false) 0 :=
  ⟨.int 5, .integral 5, .floatInt 5, .float _, .hex _ (by simp [IsNumeral, lowerDigits, upperDigits]), .yes, .no⟩
/-- EncodeRefusals: each clause. -/
theorem witness_EncodeRefusals :
    TypeTag.int.numeric = true ∧ ({ tag := .int, scale := some 0 } : DisplaySpec).scale = some 0 ∧ (5 : Rat) < 10 ∧
      (⌊(7 / 2 : Rat)⌋ : Rat) ≠ 7 / 2 ∧ ¬ IsNumeral ['0', 'x', 'f'] ∧ ¬ IsNumeral [] ∧
      rawNumber .exact { tag := .int } ((-1 : Int) : Rat) ≤ -1 ∧ Value.fits (.truth true) (some { tag := .int }) = false ∧
      Value.fits (.int 1) none = false := by
  refine ⟨rfl, rfl, by decide +kernel, by decide +kernel, ?_, ?_, by decide +kernel, rfl, rfl⟩ <;>
    simp [IsNumeral, lowerDigits, upperDigits]
theorem witness_EncodeInvertsDecode : TypeTag.bool = .int ∨ TypeTag.bool = .hex ∨ TypeTag.bool = .bool := by decide
/-- The map of 2.6 is well formed, under the separator U+005F. -/
theorem map26_wellFormed : MapWellFormed ['_'] model26.registerMap := mapWellFormed_iff.2 (by decide +kernel)
/-- The registers 0 and 4 of the facade, by name and by index. -/
theorem witness_Selects (s : State) (hf : s.facades = [facade26]) (hb : s.bus.ident = 0) (hs : s.nameSep = ['_']) :
    Selects 0 (.name ['g', 'o', 'a', 'l', '_', 'p', 'o', 's']) s facade26 (model26.registerMap.getD 0 default26) ∧
      Selects 0 (.index 4) s facade26 (model26.registerMap.getD 4 default26) := by
  refine ⟨⟨by rw [hf]; rfl, by rw [hb]; rfl, model26, rfl, ?_, ?_⟩, ⟨by rw [hf]; rfl, by rw [hb]; rfl, model26, rfl, ?_, ?_⟩⟩ <;>
    rw [hs]
  · exact map26_wellFormed
  · exact (chooses_iff map26_wellFormed.1).2 (by decide +kernel)
  · exact map26_wellFormed
  · exact .index rfl
/-- GetReadsAndDecodes: F2's exchange. -/
theorem witness_GetReadsAndDecodes :
    let s := answered (statusReply 1 0x80 [0x0A, 0x00]) [] []
    let reg := model26.registerMap.getD 0 default26
    Selects 0 (.name ['g', 'o', 'a', 'l', '_', 'p', 'o', 's']) s facade26 reg ∧ reg.access.canRead = true ∧
      s.bus.isOpen = true ∧ (0x80 : Byte) &&& 0x7F = 0 ∧ ([0x0A, 0x00] : List Byte).length ≤ 65531 ∧
      LineAnswers (statusReply facade26.fid 0x80 [0x0A, 0x00]) [] [] s.line ∧
      decodedValue s.num reg.display [0x0A, 0x00] = some (.int 10) :=
  ⟨(witness_Selects _ rfl rfl rfl).1, rfl, rfl, rfl, by simp, lineAnswers_answering _ _ _, by decide +kernel⟩
/-- SetEncodesPadsAndWrites: F11's exchange. -/
theorem witness_SetEncodesPadsAndWrites :
    let s := answered (statusReply 1 0x80 []) [] []
    let reg := model26.registerMap.getD 0 default26
    Selects 0 (.name ['g', 'o', 'a', 'l', '_', 'p', 'o', 's']) s facade26 reg ∧ reg.access.canWrite = true ∧
      s.bus.isOpen = true ∧ EncodesTo s.num reg.display (.int 10) [0x0A] ∧ ([0x0A] : List Byte).length ≤ reg.size ∧
      reg.size ≤ 65530 ∧ ([] : List Byte).length ≤ 65531 ∧
      LineAnswers (statusReply facade26.fid 0x80 []) [] [] s.line := by
  have h : ⌊rawNumber .exact { tag := .int, offset := some 5, scale := some 2 } ((10 : Int) : Rat)⌋.toNat = 10 := by decide +kernel
  have hb : minimalBytes 10 = [0x0A] := by simp [minimalBytes]
  refine ⟨(witness_Selects _ rfl rfl rfl).1, rfl, rfl, ?_, by decide, Nat.le_of_ble_eq_true rfl, by simp, lineAnswers_answering _ _ _⟩
  rw [← hb, ← h]
  exact .number { tag := .int, offset := some 5, scale := some 2 } _ _ (by decide +kernel) (by intro _ _ h; cases h)
    (.int 10) (by decide +kernel)
/-- DevPingTellsPresence: F16 with an error byte of 0x80 and one data byte only. -/
theorem witness_DevPingTellsPresence :
    let s := answered (statusReply 1 0x80 [0x24]) [] []
    s.facades[0]? = some facade26 ∧ facade26.busRef = s.bus.ident ∧ s.bus.isOpen = true ∧
      LineAnswers (statusReply facade26.fid 0x80 [0x24]) [] [] s.line :=
  ⟨rfl, rfl, rfl, lineAnswers_answering _ _ _⟩
/-- FacadeReportsFailure: F4 and F10, no reply. -/
theorem witness_FacadeReportsFailure :
    let s : State := { State.reset with facades := [facade26] }
    s.facades[0]? = some facade26 ∧ facade26.busRef = s.bus.ident ∧ s.bus.isOpen = true ∧
      (∀ p, p = buildPacketBytes 1 0x02 (le16 0x10 ++ le16 2) ∨ p = buildPacketBytes 1 0x03 (le16 0x10 ++ [0x0A] ++ [0x00]) ∨
        p = buildPacketBytes 1 0x01 [] → verdict p (exchange p s.line) = some .shortHeader) := by
  refine ⟨rfl, rfl, rfl, ?_⟩
  rintro p (rfl | rfl | rfl) <;> decide +kernel
/-- FacadeRefusals: each clause: no model; names that collide in case and separator; no such register; no getter; no
setter; two bytes into a one-byte register; a register of 65531 bytes. -/
theorem witness_FacadeRefusals :
    ({ facade26 with model := none } : Facade).model = none ∧
      NamesCollide ['_'] (model26.registerMap ++ [{ default26 with name := ['G', 'O', 'a', 'l', '_', 'p', 'o', 's'] }]) ∧
      (∀ reg, ¬ Chooses ['_'] model26.registerMap (.index 5) reg) ∧
      (∀ reg, ¬ Chooses ['_'] model26.registerMap (.name ['S', 'p']) reg) ∧
      Chooses ['_'] model26.registerMap (.index 3) (model26.registerMap.getD 3 default26) ∧
      (model26.registerMap.getD 3 default26).access = .write ∧
      Chooses ['_'] model26.registerMap (.index 2) (model26.registerMap.getD 2 default26) ∧
      (model26.registerMap.getD 2 default26).access = .read ∧
      (model26.registerMap.getD 3 default26).size < ([0x02, 0x01] : List Byte).length ∧
      MapWellFormed ['_'] [{ default26 with size := 65531 }] := by
  refine ⟨rfl, namesCollide_iff.2 (by decide +kernel), fun reg h => ?_, fun reg h => ?_, .index rfl, rfl, .index rfl, rfl,
    by decide, mapWellFormed_iff.2 (by decide +kernel)⟩
  · cases h with | index h => cases h
  · have h := (chooses_iff map26_wellFormed.1).1 h
    have none : selectReg ['_'] model26.registerMap (.name ['S', 'p']) = none := by decide +kernel
    rw [none] at h; cases h
/-- FacadeRefusals, HostCreatesAndCloses: R42 (c) to (e), each condition failed by the least it can be, and met at its
bound. -/
theorem witness_IllFormed :
    IllFormed { default26 with address := 65536 } ∧ IllFormed { default26 with size := 0 } ∧
      IllFormed { default26 with size := 65536 } ∧
      IllFormed { default26 with display := some { tag := .int, min := some 7, max := some 6 } } ∧
      IllFormed { default26 with access := .write, display := some { tag := .int, scale := some 0 } } ∧
      ¬ IllFormed { default26 with
        address := 65535, size := 65535, access := .read
        display := some { tag := .int, scale := some 0, min := some 7, max := some 7 } } ∧
      MapWellFormed ['_'] [default26] ∧ ¬ NamesCollide ['_'] [{ default26 with size := 0 }] := by
  simp only [illFormed_iff, mapWellFormed_iff, namesCollide_iff]
  decide +kernel
/-- FacadeRefusals: an ENCODE that is refused; AbsentFacadesAreRefused: an empty place, another bus. -/
theorem witness_AbsentFacadesAreRefused :
    refusalOf (exec (.encode (.int (-1)) (some { tag := .int })) State.reset) = some .negativeRaw ∧
      State.reset.facades[1]? = none ∧ ({ facade26 with busRef := 1 } : Facade).busRef ≠ State.reset.bus.ident := by
  decide +kernel
/-- HostCreatesAndCloses: a model found, a number not found, a model whose map has a register of size 0. -/
theorem witness_HostCreatesAndCloses :
    ([model26] : List DeviceModel) = [] ++ model26 :: [] ∧ model26.number = 1060 ∧
      MapWellFormed State.reset.nameSep model26.registerMap ∧ (∀ m ∈ State.reset.devdb, m.number ≠ 1060) ∧
      ∃ d ∈ ({ model26 with registerMap := [{ default26 with size := 0 }] } : DeviceModel).registerMap, IllFormed d :=
  ⟨rfl, rfl, map26_wellFormed, by decide, _, List.mem_singleton.2 rfl, .inr (.inl rfl)⟩
/-- GetIsRefusedWithDecode: a register of type hex with offset 5 that reads 3. -/
theorem witness_GetIsRefusedWithDecode :
    let s := answered (statusReply 1 0x80 [0x03]) [] []
    let reg := model26.registerMap.getD 4 default26
    Selects 0 (.index 4) s facade26 reg ∧ reg.access.canRead = true ∧ s.bus.isOpen = true ∧
      LineAnswers (statusReply facade26.fid 0x80 [0x03]) [] [] s.line ∧ decodedValue s.num reg.display [0x03] = none :=
  ⟨(witness_Selects _ rfl rfl rfl).2, rfl, rfl, lineAnswers_answering _ _ _, by decide +kernel⟩
/-- NameAndIndexSelectTheSame: another case and the separator for the space; a name of no register. -/
theorem witness_NameAndIndexSelectTheSame :
    model26.registerMap[0]? = some (model26.registerMap.getD 0 default26) ∧
      SameName ['_'] ['G', 'O', 'A', 'L', '_', 'P', 'o', 's'] (model26.registerMap.getD 0 default26).name ∧
      ∀ reg ∈ model26.registerMap, ¬ SameName ['_'] ['G', 'o', 'a', 'l', '-', 'P', 'o', 's'] reg.name := by
  simp only [sameName_iff]
  decide +kernel
/-- R197, spelt: `A` and `Z` become `a` and `z`, a space the separator, and the neighbours of A to Z stay. -/
theorem test_normalise :
    NormalisesTo ['_'] ['A', ' ', 'Z', '@', '[', 'q'] (['a'] ++ ['_'] ++ ['z', '@', '[', 'q']) :=
  .letter (k := 0) rfl rfl (.space (.letter (k := 25) rfl rfl
    (.other (by decide) (by decide) (.other (by decide) (by decide) (.other (by decide) (by decide) .nil)))))
/-- OnlyGetAndSetRaiseHwErr: F2 raises. -/
theorem witness_OnlyGetAndSetRaiseHwErr :
    (nextOf (exec (.get 0 (.index 0)) (answered (statusReply 1 0x80 [0x0A, 0x00]) [] []))).map
      (fun t => decide (t.hwerr ≠ [])) = some true := by decide +kernel
/-- OnlyHooksChange, StepKeepsInvariant, ResetInIdleTime: a step that registers a hook, one that pings, one that resets. -/
theorem witness_step_completes :
    (nextOf (step { State.reset with port := [.reset] })).isSome = true ∧
    (nextOf (step { State.reset with port := [.registerHook 0 9] })).isSome = true ∧
      (nextOf (step { State.reset with port := [.command [0x03, 0x05]] })).isSome = true := by decide +kernel
theorem witness_StepRunsTheDecodedInstruction :
    ({ State.reset with port := [.command [0x03, 0x05]] } : State).port = .command [0x03, 0x05] :: [] ∧
      State.reset.phase = .idle ∧ State.reset.notifying = false ∧ decodeCommand [0x03, 0x05] = .ok (.ping 5) := by decide
/-- StepTakesRequests: each clause: nothing waits; a transaction runs; a command that is none; selectors 0xC and 0xF; a request during a
notification; a hook on a facade that stands there. -/
theorem witness_StepTakesRequests :
    State.reset.port = [] ∧ ({ State.reset with phase := .s4 } : State).phase ≠ .idle ∧ decodeCommand [0x10] = .error .noSuchSelector ∧ 0xC ≤ (0x0C : Byte).toNat ∧
      (0x0F : Byte).toNat ≤ 0xF ∧ ({ State.reset with notifying := true } : State).notifying = true ∧
      (State.reset.facades[0]?).isSome = true := by decide
/-- StepKeepsInvariant, RunsAreNeverBusy: the invariant holds at reset, with a request waiting and a facade created. -/
theorem witness_invariant : ({ State.reset with port := [.command [0x03, 0x05]], facades := [facade26] } : State).Inv where
  idle := rfl
  quiet := rfl
  hdr := by decide
  body := by decide
  txbuf := .inl rfl
  okByte := fun _ => rfl
  servoByte := by intro h; cases h
  events := by intro e he; cases he
  maps := by
    intro f hf m hm
    rw [List.mem_singleton.1 hf] at hm
    cases hm
    decide +kernel
/-- DecodeInvertsEncode, EncodeInvertsDecoding: a packet, and a host operation with every operand present. -/
theorem witness_DecodeInvertsEncode :
    WellFormed (.pktWrite 1 5 1 [] 0xA368) ∧ WellFormed (.buildPacket 1 2 [3]) ∧
      decode [0x00, 0x00, 0x00, 0x07] = .ok (.crc16 [] none, [0x07]) := by decide +kernel
theorem witness_UndefinedPacketCodesAreRefused :
    (0x08 : Byte) ≠ 0x01 ∧ (0x08 : Byte) ≠ 0x02 ∧ (0x08 : Byte) ≠ 0x03 ∧ (0x08 : Byte) ≠ 0x55 := by decide

end Sys2Proof.Tests
end

/-! PROOF. The register data model (00_scope R15): DECODE and ENCODE of the numeric tags as whole operations, then
O26 to O29, O32, O33 and O36. -/

namespace Sys2Proof.Claims

open Sys2Proof.Machine

/-! ### DECODE of a numeric tag -/

/-- Where the cast answers, DECODE completes, and this is all it writes. -/
theorem exec_decode_of_cast {d : DisplaySpec} {tag : TypeTag} {raw : List Byte} {s : State} {v : Value}
    (htag : d.tag = tag) (hnum : tag.numeric = true) (hc : ds4Cast tag raw (engineering s.num d raw) = .ok v) :
    exec (.decode raw (some d)) s = .next { s with
      op := .decode, raw := raw, spec := some d, comb := fromLe raw, val := engineering s.num d raw
      result := .value v } := by
  subst htag
  simp only [exec, execDecode, decodeOp, if_pos hnum, latchOp_num, engineering_eq, hc]
  rfl

/-- Where the cast is refused, so is DECODE. -/
theorem exec_decode_of_cast_refused {d : DisplaySpec} {tag : TypeTag} {raw : List Byte} {s : State} {r : Refusal}
    (htag : d.tag = tag) (hnum : tag.numeric = true) (hc : ds4Cast tag raw (engineering s.num d raw) = refuse r) :
    exec (.decode raw (some d)) s = .refused r := by
  subst htag
  simp only [exec, execDecode, decodeOp, if_pos hnum, latchOp_num, engineering_eq, hc]
  rfl

/-- R168, R169 without rounding: where NUM represents every intermediate result. -/
theorem engineering_of_represents {num : NumDomain} {d : DisplaySpec} {raw : List Byte}
    (h : Represents num [(fromLe raw : Rat), fromLe raw - d.offset.getD 0,
      (fromLe raw - d.offset.getD 0) * d.scale.getD 1]) :
    engineering num d raw = (fromLe raw - d.offset.getD 0) * d.scale.getD 1 := by
  simp only [Represents, rounded_eq, List.forall_mem_cons] at h
  obtain ⟨hcomb, hdiff, hprod, -⟩ := h
  rw [← engineering_eq]
  exact decodeStages_eq hcomb hdiff hprod

/-- Without offset and scale only the combined number itself is rounded. -/
theorem engineering_of_tag_only {num : NumDomain} {raw : List Byte} (tag : TypeTag)
    (h : rounded num (fromLe raw) = fromLe raw) : engineering num { tag := tag } raw = fromLe raw := h

/-! ### Truncation and the casts -/

theorem trunc_eq_floor {v : Rat} (h : (⌊v⌋ : Rat) = v) : trunc v = ⌊v⌋ := by
  rw [trunc_eq]
  split
  · rfl
  · rw [← h, Int.ceil_intCast, Int.floor_intCast]

@[simp] theorem trunc_natCast (n : Nat) : trunc (n : Rat) = n := by
  simp [trunc_eq]

theorem ds4Cast_bool (raw : List Byte) (v : Rat) : ds4Cast .bool raw v = .ok (.truth (decide (v ≠ 0))) := by
  simp [ds4Cast, bne, beq_eq_decide]

theorem ds4Cast_hex_natCast (raw : List Byte) (n : Nat) : ds4Cast .hex raw (n : Rat) = .ok (.text (hexText n)) := by
  simp [ds4Cast]

/-- R177: `hex` takes natural numbers only. -/
theorem ds4Cast_hex_refused {raw : List Byte} {v : Rat} (h : v < 0 ∨ (⌊v⌋ : Rat) ≠ v) :
    ds4Cast .hex raw v = refuse .hexOfNonNatural := by
  refine if_neg fun ⟨hden, hnum⟩ => ?_
  obtain hneg | hfrac := h
  · exact absurd (Rat.num_nonneg.1 hnum) (not_le.2 hneg)
  · exact hfrac (by rw [← Rat.coe_int_num_of_den_eq_one hden, Int.floor_intCast])

/-- DECODE of type `hex` completes with `hexText` of a natural value. -/
theorem exec_decode_hex {raw : List Byte} {d : DisplaySpec} {s : State} {n : Nat} (htag : d.tag = .hex)
    (hv : engineering s.num d raw = n) :
    exec (.decode raw (some d)) s = .next { s with
      op := .decode, raw := raw, spec := some d, comb := fromLe raw, val := (n : Rat)
      result := .value (.text (hexText n)) } := by
  rw [← hv]
  exact exec_decode_of_cast htag rfl (by rw [hv]; exact ds4Cast_hex_natCast raw n)

/-! ### Base-16 numerals -/

theorem numeralValue_append_digit (t : Text) (c : Char) :
    numeralValue (t ++ [c]) = 16 * numeralValue t + digitPlace c := by
  simp [numeralValue]

/-- The sixteen digits: each is lower case and stands in its place. -/
theorem digitChar_lower : ∀ n < 16, Nat.digitChar n ∈ lowerDigits ∧ digitPlace (Nat.digitChar n) = n := by decide

theorem digitChar_ne_zero : ∀ n < 16, n ≠ 0 → Nat.digitChar n ≠ '0' := by decide

theorem hexText_of_lt {n : Nat} (h : n < 16) : hexText n = [Nat.digitChar n] := by
  rw [hexText_eq, Nat.toDigits_of_lt_base h]

/-- The last digit is the remainder, and the digits before it spell the quotient. -/
theorem hexText_of_le {n : Nat} (h : 16 ≤ n) : hexText n = hexText (n / 16) ++ [Nat.digitChar (n % 16)] := by
  rw [hexText_eq, hexText_eq, Nat.toDigits_of_base_le (by norm_num) h]

theorem hexText_ne_nil (n : Nat) : hexText n ≠ [] := by
  rw [hexText_eq]
  exact Nat.toDigits_ne_nil

theorem hexText_lower (n : Nat) : ∀ c ∈ hexText n, c ∈ lowerDigits := by
  induction n using Nat.strongRecOn with
  | ind n ih =>
    by_cases h : n < 16
    · simpa [hexText_of_lt h] using (digitChar_lower n h).1
    · intro c hc
      rw [hexText_of_le (not_lt.1 h), List.mem_append, List.mem_singleton] at hc
      obtain hc | rfl := hc
      · exact ih _ (by omega) c hc
      · exact (digitChar_lower _ (Nat.mod_lt n (by norm_num))).1

theorem hexText_head_ne_zero (n : Nat) (hn : n ≠ 0) : (hexText n).head? ≠ some '0' := by
  induction n using Nat.strongRecOn with
  | ind n ih =>
    by_cases h : n < 16
    · simpa [hexText_of_lt h] using digitChar_ne_zero n h hn
    · rw [hexText_of_le (not_lt.1 h), List.head?_append_of_ne_nil _ (hexText_ne_nil _)]
      exact ih _ (by omega) (by omega)

theorem numeralValue_hexText (n : Nat) : numeralValue (hexText n) = n := by
  induction n using Nat.strongRecOn with
  | ind n ih =>
    by_cases h : n < 16
    · simpa [hexText_of_lt h, numeralValue] using (digitChar_lower n h).2
    · rw [hexText_of_le (not_lt.1 h), numeralValue_append_digit, ih _ (by omega),
        (digitChar_lower _ (Nat.mod_lt n (by norm_num))).2]
      omega

theorem isNumeral_hexText (n : Nat) : IsNumeral (hexText n) :=
  ⟨hexText_ne_nil n, fun c hc => .inl (hexText_lower n c hc)⟩

/-- A digit's value is its place in the claims' lists. -/
theorem hexValue_of_digit {c : Char} (h : c ∈ lowerDigits ∨ c ∈ upperDigits) : hexValue c = some (digitPlace c) := by
  have all : (lowerDigits ++ upperDigits).all (fun c => hexValue c == some (digitPlace c)) = true := by decide
  exact beq_iff_eq.1 (List.all_eq_true.1 all c (List.mem_append.2 h))

theorem hexValueFrom_of_digits (t : Text) (ht : ∀ c ∈ t, c ∈ lowerDigits ∨ c ∈ upperDigits) :
    ∀ n, hexValueFrom n t = some (t.foldl (fun n c => 16 * n + digitPlace c) n) := by
  induction t with
  | nil => exact fun _ => rfl
  | cons c cs ih =>
    rw [List.forall_mem_cons] at ht
    intro n
    rw [hexValueFrom, hexValue_of_digit ht.1, List.foldl_cons]
    exact ih ht.2 _

/-- The parse of ES1 gives a numeral's number (R182). -/
theorem parseHex_of_isNumeral {t : Text} (h : IsNumeral t) : parseHex t = some (numeralValue t) := by
  rw [parseHex, if_neg h.1, hexValueFrom_of_digits t h.2, numeralValue]

/-! ### Minimal bytes -/

theorem minimalBytes_eq (n : Nat) : minimalBytes n = minLe n := (minLe_eq_digits n).symm

/-- R185: a number has as many bytes as its bits fill, rounded up. -/
theorem minimalBytes_length (n : Nat) : (minimalBytes n).length = (bitLength n + 7) / 8 := by
  by_cases h : n = 0
  · subst h; rfl
  · have hlog : Nat.log 256 n = Nat.log 2 n / 8 := Nat.log_pow_left 2 8 n
    rw [minimalBytes, List.length_map, Nat.length_digits 256 n (by norm_num) h, hlog, bitLength, if_neg h,
      Nat.log2_eq_log_two]
    omega

theorem minLe_eq_nil_iff (n : Nat) : n = 0 ↔ minLe n = [] := by
  constructor
  · rintro rfl; rfl
  · intro h
    rw [← fromLe_minLe n, h]; rfl

/-- Bytes are the minimal ones of their number exactly when the last of them is not zero. -/
theorem minLe_fromLe_iff (raw : List Byte) : minLe (fromLe raw) = raw ↔ raw.getLast? ≠ some 0 := by
  refine ⟨fun h => ?_, minLe_fromLe raw⟩
  rw [← h]
  exact minLe_getLast _

/-! ### ENCODE of a numeric tag -/

theorem Denotes.numeric {tag : TypeTag} {v : Value} {q : Rat} (h : Denotes tag v q) : tag.numeric = true := by
  cases h <;> rfl

/-- The parse of ES1 gives the number an operand denotes. -/
theorem es1Parse_of_denotes {tag : TypeTag} {v : Value} {q : Rat} (h : Denotes tag v q) : es1Parse tag v = .ok q := by
  cases h with
  | int n => rfl
  | integral n => rw [es1Parse, if_pos (Rat.den_intCast n)]
  | floatInt n => rfl
  | float q => rfl
  | hex t ht => simp only [es1Parse, parseHex_of_isNumeral ht]
  | yes => rfl
  | no => rfl

/-- ES5 and ES6 answer above -1: from there to 0 the truncated number is 0, as the floor's natural part is. -/
theorem es6Emit_of_gt {v : Rat} (h : -1 < v) : es6Emit v = .ok (minimalBytes ⌊v⌋.toNat) := by
  have key : 0 ≤ trunc v ∧ (trunc v).toNat = ⌊v⌋.toNat := by
    rw [trunc_eq]
    split
    · next hv => exact ⟨Int.floor_nonneg.2 hv, rfl⟩
    · next hv =>
      have hceil : ⌈v⌉ = 0 := Int.ceil_eq_zero_iff.2 ⟨by simpa using h, (not_le.1 hv).le⟩
      have hfloor : ⌊v⌋ < 0 := Int.floor_lt.2 (by simpa using hv)
      omega
  rw [es6Emit, if_neg (not_lt.2 key.1), key.2, minimalBytes_eq]

/-- ENCODE of an operand that denotes a number completes above -1, and this is all it writes. -/
theorem exec_encode_of_denotes {d : DisplaySpec} {v : Value} {q : Rat} {s : State} (hq : Denotes d.tag v q)
    (hs : d.scale ≠ some 0) (hb : ∀ lo hi, d.min = some lo → d.max = some hi → lo ≤ hi)
    (hr : -1 < rawNumber s.num d q) :
    exec (.encode v (some d)) s = .next { s with
      op := .encode, spec := some d, val := rawNumber s.num d q
      result := .bytes (minimalBytes ⌊rawNumber s.num d q⌋.toNat) } := by
  simp only [exec, execEncode, encodeOp, if_pos hq.numeric, es0Check_ok hs hb, es1Parse_of_denotes hq]
  simp only [bind, Except.bind, latchOp_num, rawNumber_eq, es6Emit_of_gt hr]
  rfl

/-- R183, R184 without rounding: where NUM represents every intermediate result. -/
theorem rawNumber_of_represents {num : NumDomain} {d : DisplaySpec} {q : Rat}
    (h : Represents num [q, q / d.scale.getD 1, q / d.scale.getD 1 + d.offset.getD 0]) :
    rawNumber num d q = clamped d (q / d.scale.getD 1 + d.offset.getD 0) := by
  simp only [Represents, rounded_eq, List.forall_mem_cons] at h
  obtain ⟨hq, hquot, hsum, -⟩ := h
  rw [← rawNumber_eq, encodeStages_eq hq hquot hsum, es4Clamp, clampMax_eq, clampMin_eq, clamped]

/-- ENCODE where the raw number is natural: nothing is truncated. -/
theorem exec_encode_of_natural {d : DisplaySpec} {v : Value} {q : Rat} {m : Nat} {s : State} (hq : Denotes d.tag v q)
    (hs : d.scale ≠ some 0) (hb : ∀ lo hi, d.min = some lo → d.max = some hi → lo ≤ hi)
    (hm : rawNumber s.num d q = m) :
    exec (.encode v (some d)) s = .next { s with
      op := .encode, spec := some d, val := (m : Rat), result := .bytes (minLe m) } := by
  have hgt : -1 < rawNumber s.num d q := by
    rw [hm]
    exact neg_one_lt_zero.trans_le m.cast_nonneg
  rw [exec_encode_of_denotes hq hs hb hgt, hm, Int.floor_natCast, Int.toNat_natCast, minimalBytes_eq]

/-- Without offset, scale and bounds ENCODE answers the minimal bytes of a natural operand that NUM represents. -/
theorem exec_encode_of_tag_only {tag : TypeTag} {v : Value} {n : Nat} {s : State} (hv : Denotes tag v (n : Rat))
    (hn : rounded s.num n = n) :
    Completes (exec (.encode v (some { tag := tag })) s) fun t => t.result = .bytes (minLe n) :=
  ⟨_, exec_encode_of_natural hv nofun nofun hn, rfl⟩

/-! ### Truth values as operands -/

theorem denotes_truth (b : Bool) : Denotes .bool (.truth b) (b.toNat : Rat) := by
  cases b
  · simpa using Denotes.no
  · simpa using Denotes.yes

/-- The bytes of whether a sequence is not zero are that sequence only where it is empty or the one byte 1 (R189). -/
theorem minLe_truth_eq_iff (raw : List Byte) :
    minLe (decide (fromLe raw ≠ 0)).toNat = raw ↔ raw = [] ∨ raw = [1] := by
  constructor
  · intro h
    rw [← h]
    cases decide (fromLe raw ≠ 0)
    · exact .inl rfl
    · exact .inr rfl
  · rintro (rfl | rfl) <;> rfl

/-! ### The obligations -/

/-- Settles O26: each tag's cast answers; on a whole number truncation is the floor. -/
theorem decodeAppliesOffsetThenScale : Obligations.DecodeAppliesOffsetThenScale := by
  intro raw d s h
  obtain htag | htag | ⟨htag, hwhole⟩ := h
  · refine ⟨_, exec_decode_of_cast htag rfl rfl, ?_, engineering_of_represents⟩
    rw [htag]
  · refine ⟨_, exec_decode_of_cast htag rfl (ds4Cast_bool _ _), ?_, engineering_of_represents⟩
    rw [htag]
  · refine ⟨_, exec_decode_of_cast htag rfl rfl, ?_, engineering_of_represents⟩
    rw [htag, trunc_eq_floor hwhole]

/-- Settles O27: truncation toward zero is floor or ceiling by the sign. -/
theorem decodeIntTruncates : Obligations.DecodeIntTruncates := by
  intro raw d s htag
  refine ⟨_, exec_decode_of_cast htag rfl rfl, ?_, rfl⟩
  exact congrArg (OpResult.value ∘ Value.int) (trunc_eq _)

/-- Settles O28: the laws of `hexText`, each by induction on the number through its last digit. -/
theorem decodeHexSpellsTheNumber : Obligations.DecodeHexSpellsTheNumber := by
  intro raw d s n htag hv hn
  exact ⟨_, exec_decode_hex htag hv, hexText n, rfl, hexText_lower n,
    hexText_head_ne_zero n (Nat.one_le_iff_ne_zero.1 hn), numeralValue_hexText n⟩

/-- Settles O29: the cast of 0, and its refusal of what is negative or not whole. -/
theorem decodeHexCorners : Obligations.DecodeHexCorners := by
  intro raw d s htag
  refine ⟨fun hzero => ?_, fun hneg => ?_, fun hfrac => ?_⟩
  · exact ⟨_, exec_decode_hex (n := 0) htag (by rw [hzero, Nat.cast_zero]), by rw [Nat.cast_zero]; rfl⟩
  · exact exec_decode_of_cast_refused htag rfl (ds4Cast_hex_refused (.inl hneg))
  · exact exec_decode_of_cast_refused htag rfl (ds4Cast_hex_refused (.inr hfrac))

/-- Settles O33: the parse gives the number the operand denotes, and the stages its raw number. -/
theorem encodeEmitsMinimalBytes : Obligations.EncodeEmitsMinimalBytes :=
  fun _ _ _ _ hv hs hb hr => ⟨_, exec_encode_of_denotes hv hs hb hr, rfl, minimalBytes_length _⟩

/-- Settles O32: where the raw number is natural its bytes obey the laws of `min_le`. -/
theorem encodeInvertsAndClamps : Obligations.EncodeInvertsAndClamps := by
  intro n d s m htag hs hb hm
  have hv : Denotes d.tag (.int n) n := htag ▸ .int n
  exact ⟨_, exec_encode_of_natural hv hs hb hm, minLe m, rfl, fromLe_minLe m, minLe_getLast m, minLe_eq_nil_iff m,
    fun hrep => hm.symm.trans (rawNumber_of_represents hrep)⟩

/-- Settles O36: `int` and `hex` hand ENCODE the very number, `bool` hands it 0 or 1. -/
theorem encodeInvertsDecode : Obligations.EncodeInvertsDecode := by
  intro tag raw s htag hrep
  simp only [Represents, List.forall_mem_cons] at hrep
  obtain ⟨hn, h0, h1, -⟩ := hrep
  have hv := engineering_of_tag_only tag hn
  have hbytes : fromLe (minLe (fromLe raw)) = fromLe raw ∧ (minLe (fromLe raw) = raw ↔ raw.getLast? ≠ some 0) :=
    ⟨fromLe_minLe _, minLe_fromLe_iff raw⟩
  obtain rfl | rfl | rfl := htag
  · have hcast : ds4Cast .int raw (engineering s.num { tag := .int } raw) = .ok (.int (fromLe raw)) := by
      rw [hv, ds4Cast, trunc_natCast]
    exact ⟨_, _, ⟨_, exec_decode_of_cast rfl rfl hcast, rfl⟩, exec_encode_of_tag_only (.int (fromLe raw)) hn,
      fun _ => hbytes, nofun⟩
  · have hden : Denotes .hex (.text (hexText (fromLe raw))) (fromLe raw) := by
      simpa only [numeralValue_hexText] using Denotes.hex _ (isNumeral_hexText (fromLe raw))
    exact ⟨_, _, ⟨_, exec_decode_hex rfl hv, rfl⟩, exec_encode_of_tag_only hden hn, fun _ => hbytes, nofun⟩
  · have hcast : ds4Cast .bool raw (engineering s.num { tag := .bool } raw) =
        .ok (.truth (decide (fromLe raw ≠ 0))) := by
      rw [hv, ds4Cast_bool]
      simp only [ne_eq, Nat.cast_eq_zero]
    have htruth : ∀ b : Bool, rounded s.num (b.toNat : Rat) = b.toNat := by
      rintro (_ | _)
      · simpa using h0
      · simpa using h1
    exact ⟨_, _, ⟨_, exec_decode_of_cast rfl rfl hcast, rfl⟩, exec_encode_of_tag_only (denotes_truth _) (htruth _),
      (absurd rfl ·), fun _ => minLe_truth_eq_iff raw⟩

end Sys2Proof.Claims

/-! PROOF. A transaction as one exchange on the line (42_bus_transport R131 to R145, R216, R224): what the transaction
engine answers and all it leaves, as one equation. -/

namespace Sys2Proof.Claims

open Sys2Proof.Machine

/-! ### Attempts -/

@[simp] theorem ok_bind {α β : Type} (a : α) (f : α → Attempt β) : ((.ok a : Attempt α) >>= f) = f a := rfl

@[simp] theorem refuse_bind {α β : Type} (r : Refusal) (f : α → Attempt β) : (refuse r >>= f) = refuse r := rfl

/-! ### The claims' second reading of CRC, header and error byte -/

theorem foldl_crcStep_toNat (bytes : List Byte) : ∀ acc, (bytes.foldl crcStep acc).toNat = crcLoop bytes acc.toNat := by
  induction bytes with
  | nil => exact fun _ => rfl
  | cons b bs ih =>
    intro acc
    rw [List.foldl_cons, ih, crcStep_toNat, crcLoop]

/-- R105's loop over integers computes the engine's CRC. -/
theorem crc16_toNat (bytes : List Byte) : (crc16 bytes).toNat = crcLoop bytes 0 := foldl_crcStep_toNat bytes 0

theorem headerLen_toNat (hdr : List Byte) : (headerLen hdr).toNat = lenIn hdr := word16_toNat _ _

theorem readLimit_eq (n : Nat) (s : State) : readLimit n s = atMost (lineNow s).limit n := rfl

/-- Step 7's comparison in the words of `verdict` (R137). -/
theorem checksum_ne_iff (r : List Byte) : crc16 (dropLast2 r) ≠ trailer r ↔
    crcLoop (r.take (r.length - 2)) 0 ≠ (r.getD (r.length - 2) 0).toNat + 256 * (r.getD (r.length - 1) 0).toNat := by
  rw [ne_eq, ← BitVec.toNat_inj, crc16_toNat, trailer, word16_toNat, dropLast2]

/-- Step 9's test of the low seven bits in the words of `verdict` (R139). -/
theorem errorBitsSet_iff : ∀ e : Byte, errorBitsSet e = true ↔ e.toNat % 128 ≠ 0 := by decide +kernel

/-! ### The state on the way through a transaction -/

/-- Flushed, and the packet sent. -/
def sent (p : List Byte) (s : State) : State :=
  { s with
    phase := .s2, acc := crc16 (dropLast2 p), txbuf := p
    rxq := (s.line.getD 1 {}).arrives ++ (s.line.getD 1 {}).heard.getD p
    line := s.line.drop 2, events := s.events ++ [(.s1, .flush), (.s2, .write p)] }

/-- The echo read. -/
def echoRead (p : List Byte) (s : State) : State :=
  { sent p s with
    phase := .s3, echo := (exchange p s.line).echo, rxq := (exchange p s.line).afterEcho
    line := s.line.drop 3, events := s.events ++ (allEvents p (exchange p s.line)).take 3 }

/-- The header read. -/
def headerRead (p : List Byte) (s : State) : State :=
  { echoRead p s with
    phase := .s4, hdr := (exchange p s.line).hdr, rxq := (exchange p s.line).afterHdr
    line := s.line.drop 4, events := s.events ++ (allEvents p (exchange p s.line)).take 4 }

/-- The body read. -/
def bodyRead (p : List Byte) (s : State) : State :=
  { headerRead p s with
    phase := .s6, len := headerLen (exchange p s.line).hdr, body := (exchange p s.line).body
    rxq := (exchange p s.line).afterBody
    line := s.line.drop 5, events := s.events ++ allEvents p (exchange p s.line) }

/-- The checksum computed. -/
def checksummed (p : List Byte) (s : State) : State :=
  { bodyRead p s with phase := .s7, acc := crc16 (dropLast2 (exchange p s.line).resp) }

/-- The error byte taken. -/
def errByteTaken (p : List Byte) (s : State) : State :=
  { checksummed p s with phase := .s9, errByte := (exchange p s.line).resp.getD 8 0 }

theorem lineNow_of_drop {s : State} {line : List LineStep} {n : Nat} (h : s.line = line.drop n) :
    lineNow s = line.getD n {} := by
  rw [lineNow, h, List.headD_eq_head?_getD, List.head?_drop, List.getD_eq_getElem?_getD]

/-- Steps 1 and 2. -/
theorem step2_step1 (a i : Byte) (p : List Byte) (s : State) :
    step2 a i p (step1 s) = sent (buildPacketBytes a i p) s := by
  have hline : lineNow (step1 s) = s.line.getD 1 {} := lineNow_of_drop (by rw [step1_eq, List.drop_one])
  rw [step2_eq, hline, step1_eq, sent, dropLast2_build]
  simp [← List.drop_one]

theorem step3_sent (p : List Byte) (s : State) : step3 (sent p s) =
    if (exchange p s.line).echo ≠ p then .error (.transmissionMismatch, echoRead p s) else .ok (echoRead p s) := by
  have hline : lineNow { sent p s with phase := .s3 } = s.line.getD 2 {} := lineNow_of_drop rfl
  simp only [step3, rxRead, pending, readLimit_eq, hline]
  simp [sent, echoRead, exchange, allEvents]

theorem step4_echoRead (p : List Byte) (s : State) : step4 (echoRead p s) =
    if (exchange p s.line).hdr.length < 7 then .error (.shortHeader, headerRead p s) else .ok (headerRead p s) := by
  have hline : lineNow { echoRead p s with phase := .s4 } = s.line.getD 3 {} := lineNow_of_drop rfl
  simp only [step4, rxRead, pending, readLimit_eq, hline]
  simp [echoRead, headerRead, exchange, allEvents, Config.headerLength]

theorem step5_headerRead (p : List Byte) (s : State) : step5 (headerRead p s) =
    if (exchange p s.line).hdr.take 5 ≠ p.take 5 then .error (.headerMismatch, { headerRead p s with phase := .s5 })
    else .ok { headerRead p s with phase := .s5 } := rfl

theorem step6_headerRead (p : List Byte) (s : State) : step6 { headerRead p s with phase := .s5 } =
    if (exchange p s.line).body.length < lenIn (exchange p s.line).hdr then .error (.incompletePacket, bodyRead p s)
    else .ok (bodyRead p s) := by
  have hline : ∀ l, lineNow { headerRead p s with phase := .s6, len := l } = s.line.getD 4 {} :=
    fun _ => lineNow_of_drop rfl
  simp only [step6, rxRead, pending, readLimit_eq, hline, headerLen_toNat]
  simp [headerRead, bodyRead, exchange, allEvents]

theorem step7_bodyRead (p : List Byte) (s : State) : step7 (bodyRead p s) =
    if crcLoop ((exchange p s.line).resp.take ((exchange p s.line).resp.length - 2)) 0 ≠
        ((exchange p s.line).resp.getD ((exchange p s.line).resp.length - 2) 0).toNat +
          256 * ((exchange p s.line).resp.getD ((exchange p s.line).resp.length - 1) 0).toNat
    then .error (.badChecksum, checksummed p s) else .ok (checksummed p s) :=
  if_congr (checksum_ne_iff (exchange p s.line).resp) rfl rfl

theorem step8_checksummed (p : List Byte) (s : State) : step8 (checksummed p s) =
    if lenIn (exchange p s.line).hdr < 4 ∨ (exchange p s.line).resp.getD 7 0 ≠ 0x55
    then .error (.notAStatusPacket, { checksummed p s with phase := .s8 })
    else .ok { checksummed p s with phase := .s8 } :=
  if_congr (by rw [← headerLen_toNat]; rfl) rfl rfl

theorem step9_checksummed (p : List Byte) (s : State) : step9 { checksummed p s with phase := .s8 } =
    if ((exchange p s.line).resp.getD 8 0).toNat % 128 ≠ 0 then .error (.servoReportedError, errByteTaken p s)
    else .ok (errByteTaken p s) :=
  if_congr (errorBitsSet_iff ((exchange p s.line).resp.getD 8 0)) rfl rfl

/-! ### A whole transaction -/

/-- What TRANSACT answers after this exchange, by the verdict on it. -/
def answerOf (x : Exchange) : Option TxError → TxResult
  | none => .ok x.payload
  | some e => .err e (infoOf x e)

/-- The state a transaction that sends `p` ends in, by the verdict on its exchange. -/
def finalState (p : List Byte) (x : Exchange) (s : State) (v : Option TxError) : State :=
  { s with
    phase := .idle, txbuf := p, echo := x.echo
    hdr := if v = some .transmissionMismatch then s.hdr else x.hdr
    len := if reachesBody v then headerLen x.hdr else s.len
    body := if reachesBody v then x.body else s.body
    acc := if reachesChecksum v then crc16 (dropLast2 x.resp) else crc16 (dropLast2 p)
    err := v.elim .ok .failed
    errByte := if v = none ∨ v = some .servoReportedError then x.resp.getD 8 0 else s.errByte
    diag := v.elim s.diag fun e => s.diag ++ [.transactionError e (infoOf x e)]
    rxq := leftover x v, line := s.line.drop (eventCount v)
    events := s.events ++ (allEvents p x).take (eventCount v) }

/-- How a transaction ends, by the verdict on its exchange. -/
def endOf (p : List Byte) (x : Exchange) (s : State) (v : Option TxError) : TxResult × State :=
  (answerOf x v, finalState p x s v)

/-- A checking step raises, and the transaction is over, or goes on. -/
theorem endTransaction_ite {c : Prop} [Decidable c] (e : TxError) (u : State) (f : State → TxStep) :
    endTransaction ((if c then .error (e, u) else .ok u) >>= f) =
      if c then endTransaction (.error (e, u)) else endTransaction (f u) := by
  split <;> rfl

/-- A transaction is decided by the verdict on its exchange: every check of the engine is one of `verdict`'s, in the same
order, so that the two chains of conditions agree case by case. -/
theorem runTransaction_eq (a i : Byte) (parameters : List Byte) (s : State) (p : List Byte) (x : Exchange)
    (hp : p = buildPacketBytes a i parameters) (hx : x = exchange p s.line) :
    runTransaction a i parameters s = endOf p x s (verdict p x) := by
  subst hx
  simp only [runTransaction, step2_step1, ← hp, receiveSteps, step3_sent, endTransaction_ite, step4_echoRead,
    step5_headerRead, step6_headerRead, step7_bodyRead, step8_checksummed, step9_checksummed, verdict,
    apply_ite (endOf p (exchange p s.line) s)]
  refine ite_congr rfl (fun _ => ?_) fun _ => ite_congr rfl (fun _ => ?_) fun _ => ite_congr rfl (fun _ => ?_) fun _ =>
    ite_congr rfl (fun _ => ?_) fun _ => ite_congr rfl (fun _ => ?_) fun _ => ite_congr rfl (fun _ => ?_) fun _ =>
    (apply_ite endTransaction _ _ _).trans (ite_congr rfl (fun _ => ?_) fun _ => ?_)
  all_goals rfl

/-- The state a transaction ends in is the one the claims describe, the rest being as before. -/
theorem finalState_spec {p : List Byte} {s : State} {v : Option TxError} (hv : verdict p (exchange p s.line) = v) :
    OutsideKept s (finalState p (exchange p s.line) s v) ∧
      AfterTransaction p s (finalState p (exchange p s.line) s v) := by
  subst hv
  refine ⟨⟨⟨rfl, rfl, rfl, rfl, rfl, rfl⟩, rfl, rfl, rfl, rfl, rfl, rfl⟩,
    rfl, rfl, rfl, rfl, ?_, rfl, rfl, rfl, rfl, ?_, rfl, rfl, rfl⟩
  · rw [← headerLen_toNat, ← apply_ite]
    rfl
  · cases hv : verdict p (exchange p s.line) <;> simp [finalState]

/-! ### PING, READ and WRITE on an open bus -/

theorem pingOp_eq {a : Byte} {s : State} {p : List Byte} {v : Option TxError} (ho : s.bus.isOpen = true)
    (hp : p = buildPacketBytes a Config.codePing []) (hv : verdict p (exchange p s.line) = v) :
    pingOp a s = .ok ((answerOf (exchange p s.line) v).model?,
      finalState p (exchange p s.line) (latchRequest a Config.codePing [] s) v) := by
  rw [pingOp_ok ho, runTransaction_eq a _ _ _ p _ hp rfl, ← hv]
  rfl

theorem readOp_eq {a : Byte} {reg num : Word} {s : State} {p : List Byte} {v : Option TxError}
    (ho : s.bus.isOpen = true) (hp : p = buildPacketBytes a Config.codeRead (readParams reg num))
    (hv : verdict p (exchange p s.line) = v) :
    readOp a reg num s = .ok ((answerOf (exchange p s.line) v).payload?,
      finalState p (exchange p s.line)
        (latchRequest a Config.codeRead (readParams reg num) { s with regAddr := reg, rlen := num }) v) := by
  rw [readOp_ok ho, runTransaction_eq a _ _ _ p _ hp rfl, ← hv]
  rfl

theorem writeOp_eq {a : Byte} {reg : Word} {d : List Byte} {s : State} {p : List Byte} {v : Option TxError}
    (ho : s.bus.isOpen = true) (hd : d.length ≤ 65530)
    (hp : p = buildPacketBytes a Config.codeWrite (writeParams reg d)) (hv : verdict p (exchange p s.line) = v) :
    writeOp a reg d s = .ok ((answerOf (exchange p s.line) v).payload?,
      finalState p (exchange p s.line)
        (latchRequest a Config.codeWrite (writeParams reg d) { s with regAddr := reg, data := d }) v) := by
  have hfit : d.length + 2 ≤ Config.maxParams := by rw [Config.maxParams]; omega
  rw [writeOp_ok hfit ho, runTransaction_eq a _ _ _ p _ hp rfl, ← hv]
  rfl

/-- Settles O20: an error has no payload, so the result is `absent`; the state is the failed transaction's. -/
theorem everyFailureIsAbsent : Obligations.EveryFailureIsAbsent := by
  intro address reg num bytes len crc s e ho hb
  refine ⟨fun hv i hi => ?_, fun hv i hi => ?_, fun hv i hi => ?_⟩
  · have hrun : exec i s = execPing address s := by obtain rfl | rfl := hi <;> rfl
    rw [hrun, execPing, pingOp_eq (s := latchOp .ping s) ho rfl hv]
    obtain ⟨houtside, hafter⟩ := finalState_spec hv
    exact ⟨_, rfl, rfl, rfl, houtside, hafter, ⟨rfl, rfl, rfl, rfl⟩, rfl, rfl, rfl⟩
  · have hrun : exec i s = execRead address reg num s := by obtain rfl | rfl := hi <;> rfl
    rw [hrun, execRead, readOp_eq (s := latchOp .read s) ho rfl hv]
    obtain ⟨houtside, hafter⟩ := finalState_spec hv
    exact ⟨_, rfl, rfl, rfl, houtside, hafter, ⟨rfl, rfl, rfl, rfl⟩, rfl, rfl, rfl⟩
  · have hrun : exec i s = execWrite address reg bytes s := by obtain rfl | rfl := hi <;> rfl
    rw [hrun, execWrite, writeOp_eq (s := latchOp .write s) ho hb rfl hv]
    obtain ⟨houtside, hafter⟩ := finalState_spec hv
    exact ⟨_, rfl, rfl, rfl, houtside, hafter, ⟨rfl, rfl, rfl, rfl⟩, rfl, rfl, rfl⟩

/-- Settles O22: SEND_BLIND is step 2 alone. -/
theorem sendBlindOnlyWrites : Obligations.SendBlindOnlyWrites := by
  refine ⟨fun address code parameters s hp => ?_, fun address code parameters s ho hp => ?_⟩
  · rw [exec, execSendBlind, checkParams_long hp]
    rfl
  · simp only [exec, execSendBlind, checkParams_ok.2 hp, checkOpen_ok.2 ho, ok_bind, step2_eq, outcome_ok]
    dsimp only [deliver, returnIdle, latchRequest, latchOp, lineNow]

end Sys2Proof.Claims

/-! PROOF. DECODE, ENCODE, GET and SET, each as one sequence of attempts (43_register_data_model; 44_device_facade), and what
they answer or refuse before any transport event. -/

namespace Sys2Proof.Claims

open Sys2Proof.Machine

/-! ### DECODE and ENCODE -/

/-- No specification, or one whose tag is not converted through numbers (R173, R175, R186). -/
def PassesThrough (spec : Option DisplaySpec) : Prop := ∀ d, spec = some d → d.tag.numeric = false

theorem passesThrough_or_numeric (spec : Option DisplaySpec) :
    PassesThrough spec ∨ ∃ d, spec = some d ∧ d.tag.numeric = true := by
  cases spec with
  | none => exact .inl fun _ h => nomatch h
  | some d =>
    cases h : d.tag.numeric with
    | true => exact .inr ⟨d, rfl, h⟩
    | false => exact .inl fun _ hd => Option.some.inj hd ▸ h

/-- The claims' list of the specifications that pass bytes through. -/
theorem passesThrough_of_tag {spec : Option DisplaySpec}
    (h : spec = none ∨ ∃ d, spec = some d ∧ (d.tag = .bytes ∨ ∃ name, d.tag = .unknown name)) : PassesThrough spec := by
  obtain rfl | ⟨d, rfl, htag⟩ := h
  · exact fun _ h => nomatch h
  · rintro _ ⟨⟩
    obtain htag | ⟨name, htag⟩ := htag <;> rw [htag] <;> rfl

theorem decodeOp_of_passesThrough {spec : Option DisplaySpec} (h : PassesThrough spec) (raw : List Byte) (s : State) :
    decodeOp raw spec s = .ok (.bytes raw, { s with raw := raw, spec := spec }) := by
  cases spec with
  | none => rfl
  | some d => simp only [decodeOp, h d rfl, Bool.false_eq_true, if_false]

theorem decodeOp_of_numeric {d : DisplaySpec} (h : d.tag.numeric = true) (raw : List Byte) (s : State) :
    decodeOp raw (some d) s = ds4Cast d.tag raw (engineering s.num d raw) >>= fun v =>
      .ok (v, { s with raw := raw, spec := some d, comb := fromLe raw, val := engineering s.num d raw }) := by
  simp only [decodeOp, if_pos h, engineering_eq]

theorem encodeOp_of_passesThrough {spec : Option DisplaySpec} (h : PassesThrough spec) (v : Value) (s : State) :
    encodeOp v spec s = passBytes v >>= fun b => .ok (b, { s with spec := spec }) := by
  cases spec with
  | none => rfl
  | some d => simp only [encodeOp, h d rfl, Bool.false_eq_true, if_false]

theorem encodeOp_of_numeric {d : DisplaySpec} (h : d.tag.numeric = true) (v : Value) (s : State) :
    encodeOp v (some d) s = es0Check d >>= fun _ => es1Parse d.tag v >>= fun q =>
      es6Emit (rawNumber s.num d q) >>= fun b => .ok (b, { s with spec := some d, val := rawNumber s.num d q }) := by
  simp only [encodeOp, if_pos h, rawNumber_eq]

/-- Settles O30: nothing is converted, so no stage runs. -/
theorem decodePassesBytesThrough : Obligations.DecodePassesBytesThrough := by
  intro raw spec s h
  rw [exec, execDecode, decodeOp_of_passesThrough (passesThrough_of_tag h)]
  rfl

/-- Settles O34: nothing is converted, so no stage runs. -/
theorem encodePassesBytesThrough : Obligations.EncodePassesBytesThrough := by
  intro bytes spec s h
  rw [exec, execEncode, encodeOp_of_passesThrough (passesThrough_of_tag h)]
  rfl

/-- ENCODE answers the bytes the claims say a value encodes to. -/
theorem encodeOp_of_encodesTo {spec : Option DisplaySpec} {v : Value} {b : List Byte} {s : State}
    (h : EncodesTo s.num spec v b) : ∃ t, encodeOp v spec s = .ok (b, t) := by
  cases h with
  | absent => exact ⟨_, rfl⟩
  | pass d _ hd =>
    rw [encodeOp_of_passesThrough fun _ h => Option.some.inj h ▸ hd]
    exact ⟨_, rfl⟩
  | number d _ q hs hb hq hr =>
    rw [encodeOp_of_numeric hq.numeric, es0Check_ok hs hb, es1Parse_of_denotes hq]
    exact ⟨_, by rw [ok_bind, ok_bind, es6Emit_of_gt hr, ok_bind]⟩

/-! ### GET and SET -/

/-- What GET makes of READ's answer (R199, R200). -/
def getAnswer (place : Nat) (f : Facade) (reg : RegDescriptor) :
    Option (List Byte) × State → Attempt (Option Value × State)
  | (none, s) => .ok (none, note .getFailed s)
  | (some p, s) => decodeOp (p.drop 1) reg.display (fireHooks place f p s) >>= fun r => .ok (some r.1, r.2)

/-- What SET makes of WRITE's answer (R201). -/
def setAnswer (place : Nat) (f : Facade) : Option (List Byte) × State → Bool × State
  | (none, s) => (false, note .setFailed s)
  | (some p, s) => (true, fireHooks place f p s)

theorem getOp_eq (place : Nat) (sel : RegSel) (s : State) :
    getOp place sel s = facadeAt place s >>= fun f => selectOn f sel s >>= fun c =>
      if c.2.access.canRead then
        checkMap c.1 >>= fun _ => readOp f.fid (BitVec.ofNat 16 c.2.address) (BitVec.ofNat 16 c.2.size) s >>=
          getAnswer place f c.2
      else refuse .noGetter := by
  refine bind_congr fun f => bind_congr fun (map, reg) => ?_
  dsimp only
  cases reg.access.canRead
  · rfl
  · refine bind_congr fun _ => bind_congr fun (r, t) => ?_
    cases r <;> rfl

theorem setOp_eq (place : Nat) (sel : RegSel) (v : Value) (s : State) :
    setOp place sel v s = facadeAt place s >>= fun f => selectOn f sel s >>= fun c =>
      if c.2.access.canWrite then
        encodeOp v c.2.display s >>= fun e => checkMap c.1 >>= fun _ => pad e.1 c.2.size >>= fun d =>
          writeOp f.fid (BitVec.ofNat 16 c.2.address) d e.2 >>= fun r => .ok (setAnswer place f r)
      else refuse .noSetter := by
  refine bind_congr fun f => bind_congr fun (map, reg) => ?_
  dsimp only
  cases reg.access.canWrite
  · rfl
  · refine bind_congr fun e => bind_congr fun _ => bind_congr fun d => bind_congr fun (r, t) => ?_
    cases r <;> rfl

end Sys2Proof.Claims

/-! PROOF. The working registers are dead between operations (10_state R20, R40): every operation answers alike, and leaves
alike states, from two states that differ in the working registers only. -/

namespace Sys2Proof.Claims

open Sys2Proof.Machine

/-- Two attempts stop for the same reason, or give the same answer in states that differ in the working registers only. -/
inductive Alike {α : Type} : Attempt (α × State) → Attempt (α × State) → Prop where
  | stop (e : Stop) : Alike (.error e) (.error e)
  | answer {a : α} {s t : State} : s = withWorking s t → Alike (.ok (a, s)) (.ok (a, t))

theorem Alike.bind {α β : Type} {x y : Attempt (α × State)} {f : α × State → Attempt (β × State)} (h : Alike x y)
    (hf : ∀ a w s, Alike (f (a, withWorking w s)) (f (a, s))) : Alike (x >>= f) (y >>= f) := by
  cases h with
  | stop e => exact .stop e
  | answer hst =>
    rw [hst]
    exact hf _ _ _

/-- Behind an attempt that touches no state. -/
theorem Alike.behind {α β : Type} {f g : β → Attempt (α × State)} (x : Attempt β) (h : ∀ b, Alike (f b) (g b)) :
    Alike (x >>= f) (x >>= g) := by
  cases x with
  | error e => exact .stop e
  | ok b => exact h b

/-- With its answer delivered, an operation gives the same visible outcome. -/
theorem Alike.visible_eq {α : Type} {x y : Attempt (α × State)} (h : Alike x y) (g : α → OpResult) :
    visible (Attempt.outcome (x >>= fun r => .ok (deliver (g r.1) r.2))) =
      visible (Attempt.outcome (y >>= fun r => .ok (deliver (g r.1) r.2))) := by
  cases h with
  | stop e => rfl
  | answer hst =>
    rw [hst]
    rfl

/-! ### The transaction and the operations built on it -/

/-- What a transaction makes visible is decided by its packet, the line, and the outputs so far. -/
theorem transactOp_alike (a i : Byte) (p : List Byte) (w s : State) :
    Alike (transactOp a i p (withWorking w s)) (transactOp a i p s) := by
  refine .behind (checkParams p) fun _ => .behind (checkOpen s) fun _ => ?_
  rw [runTransaction_eq a i p (latchRequest a i p (withWorking w s)) _ _ rfl rfl,
    runTransaction_eq a i p (latchRequest a i p s) _ _ rfl rfl]
  exact .answer rfl

theorem pingOp_alike (a : Byte) (w s : State) : Alike (pingOp a (withWorking w s)) (pingOp a s) :=
  (transactOp_alike a _ _ w s).bind fun _ _ _ => .answer rfl

theorem readOp_alike (a : Byte) (reg num : Word) (w s : State) :
    Alike (readOp a reg num (withWorking w s)) (readOp a reg num s) :=
  (transactOp_alike a _ _ { w with regAddr := reg, rlen := num } { s with regAddr := reg, rlen := num }).bind
    fun _ _ _ => .answer rfl

theorem writeOp_alike (a : Byte) (reg : Word) (d : List Byte) (w s : State) :
    Alike (writeOp a reg d (withWorking w s)) (writeOp a reg d s) :=
  (transactOp_alike a _ _ { w with regAddr := reg, data := d } { s with regAddr := reg, data := d }).bind
    fun _ _ _ => .answer rfl

/-! ### DECODE and ENCODE -/

theorem decodeOp_alike (raw : List Byte) (spec : Option DisplaySpec) (w s : State) :
    Alike (decodeOp raw spec (withWorking w s)) (decodeOp raw spec s) := by
  obtain h | ⟨d, rfl, h⟩ := passesThrough_or_numeric spec
  · rw [decodeOp_of_passesThrough h, decodeOp_of_passesThrough h]
    exact .answer rfl
  · rw [decodeOp_of_numeric h, decodeOp_of_numeric h]
    exact .behind _ fun _ => .answer rfl

theorem encodeOp_alike (v : Value) (spec : Option DisplaySpec) (w s : State) :
    Alike (encodeOp v spec (withWorking w s)) (encodeOp v spec s) := by
  obtain h | ⟨d, rfl, h⟩ := passesThrough_or_numeric spec
  · rw [encodeOp_of_passesThrough h, encodeOp_of_passesThrough h]
    exact .behind _ fun _ => .answer rfl
  · rw [encodeOp_of_numeric h, encodeOp_of_numeric h]
    exact .behind _ fun _ => .behind _ fun _ => .behind _ fun _ => .answer rfl

/-! ### Facades -/

theorem fireHooks_withWorking (place : Nat) (f : Facade) (p : List Byte) (w s : State) :
    fireHooks place f p (withWorking w s) = withWorking w (fireHooks place f p s) := by
  unfold fireHooks
  split
  · rw [notifyAll_eq, notifyAll_eq]
    rfl
  · rfl

theorem getAnswer_alike (place : Nat) (f : Facade) (reg : RegDescriptor) (r : Option (List Byte)) (w s : State) :
    Alike (getAnswer place f reg (r, withWorking w s)) (getAnswer place f reg (r, s)) := by
  cases r with
  | none => exact .answer rfl
  | some p =>
    rw [getAnswer, fireHooks_withWorking]
    exact (decodeOp_alike _ _ _ _).bind fun _ _ _ => .answer rfl

theorem setAnswer_alike (place : Nat) (f : Facade) (r : Option (List Byte)) (w s : State) :
    Alike (.ok (setAnswer place f (r, withWorking w s))) (.ok (setAnswer place f (r, s))) := by
  cases r with
  | none => exact .answer rfl
  | some p =>
    rw [setAnswer, fireHooks_withWorking]
    exact .answer rfl

theorem getOp_alike (place : Nat) (sel : RegSel) (w s : State) :
    Alike (getOp place sel (withWorking w s)) (getOp place sel s) := by
  rw [getOp_eq, getOp_eq]
  refine .behind (facadeAt place s) fun f => .behind (selectOn f sel s) fun c => ?_
  split
  · exact .behind _ fun _ => (readOp_alike _ _ _ w s).bind fun r w s => getAnswer_alike place f c.2 r w s
  · exact .stop _

theorem setOp_alike (place : Nat) (sel : RegSel) (v : Value) (w s : State) :
    Alike (setOp place sel v (withWorking w s)) (setOp place sel v s) := by
  rw [setOp_eq, setOp_eq]
  refine .behind (facadeAt place s) fun f => .behind (selectOn f sel s) fun c => ?_
  split
  · exact (encodeOp_alike v _ w s).bind fun b w s => .behind _ fun _ => .behind _ fun d =>
      (writeOp_alike _ _ d w s).bind fun r w s => setAnswer_alike place f r w s
  · exact .stop _

/-! ### The obligations -/

/-- Settles O49: each operation answers alike, and what it delivers is the visible result. -/
theorem workingRegistersAreDead : Obligations.WorkingRegistersAreDead := by
  intro i s w
  cases i with
  | pktPing id crc => exact (pingOp_alike id (latchOp .ping w) (latchOp .ping s)).visible_eq .model
  | pktRead id reg num crc => exact (readOp_alike id reg num (latchOp .read w) (latchOp .read s)).visible_eq .payload
  | pktWrite id len reg d crc => exact (writeOp_alike id reg d (latchOp .write w) (latchOp .write s)).visible_eq .payload
  | pktStatus id len e d crc => rfl
  | crc16 b seed => rfl
  | buildPacket a c p =>
    rw [exec, exec, execBuildPacket, execBuildPacket]
    cases checkParams p <;> rfl
  | transact a c p => exact (transactOp_alike a c p (latchOp .transact w) (latchOp .transact s)).visible_eq .transacted
  | ping a => exact (pingOp_alike a (latchOp .ping w) (latchOp .ping s)).visible_eq .model
  | read a reg num => exact (readOp_alike a reg num (latchOp .read w) (latchOp .read s)).visible_eq .payload
  | write a reg d => exact (writeOp_alike a reg d (latchOp .write w) (latchOp .write s)).visible_eq .payload
  | sendBlind a c p =>
    have hopen : checkOpen (withWorking w s) = checkOpen s := rfl
    rw [exec, exec, execSendBlind, execSendBlind, hopen]
    cases checkParams p <;> cases checkOpen s <;> rfl
  | decode raw spec => exact (decodeOp_alike raw spec (latchOp .decode w) (latchOp .decode s)).visible_eq .value
  | encode v spec => exact (encodeOp_alike v spec (latchOp .encode w) (latchOp .encode s)).visible_eq .bytes
  | get place sel => exact (getOp_alike place sel (latchOp .get w) (latchOp .get s)).visible_eq .gotValue
  | set place sel v => exact (setOp_alike place sel v (latchOp .set w) (latchOp .set s)).visible_eq .flag
  | devPing place =>
    rw [exec, exec, execDevPing, execDevPing]
    have hfacade : facadeAt place (withWorking w s) = facadeAt place s := rfl
    rw [hfacade]
    cases facadeAt place s with
    | error e => rfl
    | ok f => exact (pingOp_alike f.fid (latchOp .devPing w) (latchOp .devPing s)).visible_eq (.flag ·.isSome)

/-- Settles O48: all that a reset in idle time writes besides HOOKS are working registers, PHASE, ERR and ERRBYTE. -/
theorem resetInIdleTime : Obligations.ResetInIdleTime := by
  intro s rest hp hi hn
  exact ⟨_, step_run hp hi hn, rfl, rfl, rfl, rfl, rfl, rfl, rfl, rfl, rfl, rfl, rfl, rfl, rfl, hn, rfl, rfl, rfl, rfl,
    rfl, rfl, fun i => workingRegistersAreDead i { s with
      port := rest, facades := s.facades.map fun f => { f with hooks := [] } } (resetBlock s)⟩

end Sys2Proof.Claims

/-! PROOF. Where GET, SET, DEV_PING and the creation of a facade are refused, and which register a name chooses (10_state
R42; 44_device_facade R196, R197, R202, R204, R208). -/

namespace Sys2Proof.Claims

open Sys2Proof.Machine

/-! ### From the operation to the instruction -/

theorem outcome_refused {a : Attempt State} {r : Refusal} (h : a.outcome = .refused r) : a = refuse r := by
  rcases a with (f | q) | t
  · cases h
  · cases h
    rfl
  · cases h

theorem exec_get_refused {place : Nat} {sel : RegSel} {s : State} {r : Refusal}
    (h : getOp place sel (latchOp .get s) = refuse r) : exec (.get place sel) s = .refused r := by
  rw [exec, execGet, h]
  rfl

theorem exec_set_refused {place : Nat} {sel : RegSel} {v : Value} {s : State} {r : Refusal}
    (h : setOp place sel v (latchOp .set s) = refuse r) : exec (.set place sel v) s = .refused r := by
  rw [exec, execSet, h]
  rfl

/-- ENCODE's refusal is the same whatever OP holds. -/
theorem encodeOp_of_exec_refused {v : Value} {spec : Option DisplaySpec} {s : State} {r : Refusal}
    (h : exec (.encode v spec) s = .refused r) (op : HostOp) : encodeOp v spec (latchOp op s) = refuse r := by
  have halike : Alike (encodeOp v spec (latchOp .encode s)) (encodeOp v spec (latchOp op s)) :=
    encodeOp_alike v spec (latchOp .encode s) (latchOp op s)
  have hrun := outcome_refused h
  generalize encodeOp v spec (latchOp .encode s) = x at halike hrun
  generalize encodeOp v spec (latchOp op s) = y at halike
  cases halike with
  | stop e => exact congrArg _ (Except.error.inj hrun)
  | answer _ => cases hrun

/-! ### The facade -/

/-- On a facade that is refused, all three operations are. -/
theorem exec_of_facade_refused {place : Nat} {s : State} {r : Refusal} (h : facadeAt place s = refuse r) (sel : RegSel)
    (v : Value) : exec (.get place sel) s = .refused r ∧ exec (.set place sel v) s = .refused r ∧
      exec (.devPing place) s = .refused r := by
  have hlatched : ∀ op, facadeAt place (latchOp op s) = refuse r := fun _ => h
  refine ⟨exec_get_refused ?_, exec_set_refused ?_, ?_⟩
  · rw [getOp_eq, hlatched, refuse_bind]
  · rw [setOp_eq, hlatched, refuse_bind]
  · rw [exec, execDevPing, h]
    rfl

/-- Settles O42: the look-up of the facade comes first. -/
theorem absentFacadesAreRefused : Obligations.AbsentFacadesAreRefused := by
  intro place sel value s
  refine ⟨fun h => exec_of_facade_refused ?_ sel value, fun f h hb => exec_of_facade_refused ?_ sel value⟩
  · simp only [facadeAt, h]
  · simp only [facadeAt, h, if_neg hb]

/-! ### The selection of a register -/

theorem selectOn_no_model {f : Facade} (h : f.model = none) (sel : RegSel) (s : State) :
    selectOn f sel s = refuse .unselectableRegister := by
  simp only [selectOn, h]

theorem selectOn_collide {f : Facade} {m : DeviceModel} {s : State} (hm : f.model = some m)
    (hc : NamesCollide s.nameSep m.registerMap) (sel : RegSel) : selectOn f sel s = refuse .illFormedMap := by
  simp only [selectOn, hm, namesCollide_iff.1 hc, Bool.false_eq_true, if_false]

/-- On a map without colliding names the selection is the look-up. -/
theorem selectOn_eq {f : Facade} {m : DeviceModel} {s : State} (hm : f.model = some m)
    (hc : ¬ NamesCollide s.nameSep m.registerMap) (sel : RegSel) :
    selectOn f sel s = (selectReg s.nameSep m.registerMap sel).elim (refuse .unselectableRegister)
      fun reg => .ok (m.registerMap, reg) := by
  have hunique : namesUnique s.nameSep m.registerMap = true := by simpa [namesCollide_iff] using hc
  simp only [selectOn, hm, if_pos hunique]
  cases selectReg s.nameSep m.registerMap sel <;> rfl

theorem selectOn_chosen {f : Facade} {m : DeviceModel} {s : State} {sel : RegSel} {reg : RegDescriptor}
    (hm : f.model = some m) (hc : ¬ NamesCollide s.nameSep m.registerMap)
    (hreg : Chooses s.nameSep m.registerMap sel reg) : selectOn f sel s = .ok (m.registerMap, reg) := by
  rw [selectOn_eq hm hc, (chooses_iff hc).1 hreg]
  rfl

theorem selectOn_unchosen {f : Facade} {m : DeviceModel} {s : State} {sel : RegSel} (hm : f.model = some m)
    (hc : ¬ NamesCollide s.nameSep m.registerMap) (hnone : ∀ reg, ¬ Chooses s.nameSep m.registerMap sel reg) :
    selectOn f sel s = refuse .unselectableRegister := by
  have hreg : selectReg s.nameSep m.registerMap sel = none :=
    Option.eq_none_iff_forall_ne_some.2 fun reg h => hnone reg ((chooses_iff hc).2 h)
  rw [selectOn_eq hm hc, hreg]
  rfl

/-- Where the selection is refused, GET and SET are. -/
theorem exec_of_select_refused {place : Nat} {f : Facade} {sel : RegSel} {s : State} {r : Refusal}
    (hf : facadeAt place s = .ok f) (h : selectOn f sel s = refuse r) (v : Value) :
    exec (.get place sel) s = .refused r ∧ exec (.set place sel v) s = .refused r := by
  have hfacade : ∀ op, facadeAt place (latchOp op s) = .ok f := fun _ => hf
  have hselect : ∀ op, selectOn f sel (latchOp op s) = refuse r := fun _ => h
  refine ⟨exec_get_refused ?_, exec_set_refused ?_⟩
  · rw [getOp_eq, hfacade, ok_bind, hselect, refuse_bind]
  · rw [setOp_eq, hfacade, ok_bind, hselect, refuse_bind]

/-- Two operands that select alike on the facade give the same GET and the same SET. -/
theorem exec_congr_select {place : Nat} {f : Facade} {sel sel' : RegSel} {s : State}
    (hf : s.facades[place]? = some f) (h : selectOn f sel s = selectOn f sel' s) (v : Value) :
    exec (.get place sel) s = exec (.get place sel') s ∧ exec (.set place sel v) s = exec (.set place sel' v) s := by
  by_cases hb : f.busRef = s.bus.ident
  · have hfacade : ∀ op, facadeAt place (latchOp op s) = .ok f := fun _ => facadeAt_ok hf hb
    have hselect : ∀ op, selectOn f sel (latchOp op s) = selectOn f sel' (latchOp op s) := fun _ => h
    refine ⟨?_, ?_⟩
    · rw [exec, exec, execGet, execGet, getOp_eq, getOp_eq, hfacade, ok_bind, ok_bind, hselect]
    · rw [exec, exec, execSet, execSet, setOp_eq, setOp_eq, hfacade, ok_bind, ok_bind, hselect]
  · have hother : facadeAt place s = refuse .facadeOnOtherBus := by simp only [facadeAt, hf, if_neg hb]
    obtain ⟨hget, hset, -⟩ := exec_of_facade_refused hother sel v
    obtain ⟨hget', hset', -⟩ := exec_of_facade_refused hother sel' v
    exact ⟨hget.trans hget'.symm, hset.trans hset'.symm⟩

/-- Settles O44: the index and the name choose the same descriptor, and the choice is all that the operand is used for. -/
theorem nameAndIndexSelectTheSame : Obligations.NameAndIndexSelectTheSame := by
  intro place s f m name value hf hm hwf
  obtain ⟨hc, -⟩ := hwf
  refine ⟨fun k reg hk hname => exec_congr_select hf ?_ value, fun hb hnone => ?_⟩
  · rw [selectOn_chosen hm hc (.name (List.mem_of_getElem? hk) hname), selectOn_chosen hm hc (.index hk)]
  · refine exec_of_select_refused (facadeAt_ok hf hb) (selectOn_unchosen hm hc ?_) value
    rintro reg (_ | ⟨hmem, hname⟩)
    exact hnone reg hmem hname

/-! ### With a register selected -/

/-- What GET does with the selected register. -/
theorem getOp_of_selected {place : Nat} {f : Facade} {sel : RegSel} {s : State} {map : List RegDescriptor}
    {reg : RegDescriptor} (hf : facadeAt place s = .ok f) (hs : selectOn f sel s = .ok (map, reg)) :
    getOp place sel s = if reg.access.canRead then
        checkMap map >>= fun _ => readOp f.fid (BitVec.ofNat 16 reg.address) (BitVec.ofNat 16 reg.size) s >>=
          getAnswer place f reg
      else refuse .noGetter := by
  rw [getOp_eq, hf, ok_bind, hs, ok_bind]

/-- What SET does with the selected register. -/
theorem setOp_of_selected {place : Nat} {f : Facade} {sel : RegSel} {v : Value} {s : State} {map : List RegDescriptor}
    {reg : RegDescriptor} (hf : facadeAt place s = .ok f) (hs : selectOn f sel s = .ok (map, reg)) :
    setOp place sel v s = if reg.access.canWrite then
        encodeOp v reg.display s >>= fun e => checkMap map >>= fun _ => pad e.1 reg.size >>= fun d =>
          writeOp f.fid (BitVec.ofNat 16 reg.address) d e.2 >>= fun r => .ok (setAnswer place f r)
      else refuse .noSetter := by
  rw [setOp_eq, hf, ok_bind, hs, ok_bind]

theorem canRead_iff {a : Access} : a.canRead = true ↔ a ≠ .write := by cases a <;> decide

theorem checkMap_of_illFormed {map : List RegDescriptor} {d : RegDescriptor} (hd : d ∈ map) (h : IllFormed d) :
    checkMap map = refuse .illFormedMap := by
  refine if_neg fun hall => ?_
  rw [illFormed_iff, List.all_eq_true.1 hall d hd] at h
  cases h

theorem checkMap_of_wellFormed {sep : Text} {map : List RegDescriptor} (h : MapWellFormed sep map) :
    checkMap map = .ok () := by
  refine if_pos (List.all_eq_true.2 fun d hd => ?_)
  simpa [illFormed_iff] using h.2 d hd

theorem writeOp_too_long {a : Byte} {reg : Word} {d : List Byte} {s : State} (hd : 65530 < d.length) :
    writeOp a reg d s = refuse .paramsTooLong := by
  have hlong : Config.maxParams < (writeParams reg d).length := by
    simp [writeParams, Config.maxParams]
    omega
  rw [writeOp, transactOp_eq, if_pos hlong]
  rfl

/-- Settles O41: the checks in the model's order, each refusal under what the checks before it let pass. -/
theorem facadeRefusals : Obligations.FacadeRefusals := by
  intro place sel value s f hf hb
  have hfacade := facadeAt_ok hf hb
  refine ⟨fun hm => exec_of_select_refused hfacade (selectOn_no_model hm sel s) value, fun m hm =>
    ⟨fun hc => exec_of_select_refused hfacade (selectOn_collide hm hc sel) value, fun hc =>
    ⟨fun hnone => exec_of_select_refused hfacade (selectOn_unchosen hm hc hnone) value, fun reg hreg => ?_⟩⟩⟩
  have hselect := selectOn_chosen hm hc hreg
  have hget := getOp_of_selected (s := latchOp .get s) hfacade hselect
  have hset := setOp_of_selected (v := value) (s := latchOp .set s) hfacade hselect
  refine ⟨fun hacc => exec_get_refused ?_, fun hacc => exec_set_refused ?_, fun hacc d hd hill => exec_get_refused ?_,
    fun hacc => ?_⟩
  · rw [hget, hacc]
    rfl
  · rw [hset, hacc]
    rfl
  · rw [hget, if_pos (canRead_iff.2 hacc), checkMap_of_illFormed hd hill, refuse_bind]
  rw [if_pos (canWrite_iff.2 hacc)] at hset
  refine ⟨fun r hr => exec_set_refused ?_, fun bytes henc => ?_⟩
  · rw [hset, encodeOp_of_exec_refused hr, refuse_bind]
  obtain ⟨t, ht⟩ := encodeOp_of_encodesTo (s := latchOp .set s) henc
  rw [ht, ok_bind] at hset
  refine ⟨fun d hd hill => exec_set_refused ?_, fun hwf hwide => exec_set_refused ?_,
    fun hwf hfit hlong => exec_set_refused ?_⟩
  · rw [hset, checkMap_of_illFormed hd hill, refuse_bind]
  · rw [hset, checkMap_of_wellFormed hwf, ok_bind, pad, if_neg (not_le.2 hwide), refuse_bind]
  · rw [hset, checkMap_of_wellFormed hwf, ok_bind, pad, if_pos hfit, ok_bind, writeOp_too_long, refuse_bind]
    rw [List.length_append, List.length_replicate]
    omega

/-! ### The host's actions -/

theorem lookupModel_eq_none {db : List DeviceModel} {n : Nat} (h : ∀ m ∈ db, m.number ≠ n) : lookupModel db n = none :=
  List.find?_eq_none.2 fun m hm => by simpa using h m hm

/-- DEVDB answers with the first descriptor of the number. -/
theorem lookupModel_eq_some {before after : List DeviceModel} {m : DeviceModel} {n : Nat}
    (h : ∀ x ∈ before, x.number ≠ n) (hm : m.number = n) : lookupModel (before ++ m :: after) n = some m := by
  rw [lookupModel, List.find?_append, List.find?_eq_none.2 fun x hx => by simpa using h x hx, Option.none_or,
    List.find?_cons_of_pos (by simpa using hm)]

/-- Settles O52: the creation looks the number up and checks the map; closing writes one bit. -/
theorem hostCreatesAndCloses : Obligations.HostCreatesAndCloses := by
  refine ⟨fun s rest fid number model hp hi hn hmodel => ?_, fun s rest hp hi hn =>
    ⟨_, step_run hp hi hn, rfl, rfl, rfl, rfl⟩⟩
  have hlookup : number.bind (lookupModel s.devdb) = model := by
    obtain ⟨rfl, rfl | ⟨n, rfl, hnone⟩⟩ | ⟨n, before, m, after, rfl, hdb, hbefore, hm, rfl⟩ := hmodel
    · rfl
    · exact lookupModel_eq_none hnone
    · rw [hdb]
      exact lookupModel_eq_some hbefore hm
  rw [step_run hp hi hn, runRequest, createFacade, hlookup]
  refine ⟨fun hwf => if_pos ?_, fun m hm hill => if_neg ?_⟩
  · rw [Option.all_eq_true]
    exact fun m hm => mapWellFormed_iff.1 (hwf m hm)
  · rw [hm, Option.all_some, ← mapWellFormed_iff]
    rintro ⟨hunique, hall⟩
    obtain hc | ⟨d, hd, hd'⟩ := hill
    · exact hunique hc
    · exact hall d hd hd'

end Sys2Proof.Claims

/-! PROOF. What every operation keeps (10_state R20 to R42, R227): one traversal of the instructions gives the invariant, the
frame of the configuration, and that no operation stops as re-entrant. -/

namespace Sys2Proof.Claims

open Sys2Proof.Machine

/-! ### Attempts and outcomes that meet a postcondition -/

/-- An attempt that succeeds does so with `P`; one that stops does not stop as re-entrant, which is for the port to say
(R207). -/
def Meets {α : Type} (x : Attempt α) (P : α → Prop) : Prop :=
  match x with
  | .ok a => P a
  | .error e => e ≠ .refusal .reentrantRequest

theorem Meets.bind {α β : Type} {x : Attempt α} {f : α → Attempt β} {P : α → Prop} {Q : β → Prop} (hx : Meets x P)
    (hf : ∀ a, P a → Meets (f a) Q) : Meets (x >>= f) Q := by
  cases x with
  | error e => exact hx
  | ok a => exact hf a hx

theorem Meets.mono {α : Type} {x : Attempt α} {P Q : α → Prop} (hx : Meets x P) (hpq : ∀ a, P a → Q a) : Meets x Q := by
  cases x with
  | error e => exact hx
  | ok a => exact hpq a hx

/-- The same for an outcome. -/
def Ends (o : Host.Outcome State Fault Refusal) (P : State → Prop) : Prop :=
  match o with
  | .next t => P t
  | .fault _ => True
  | .refused r => r ≠ .reentrantRequest

theorem Ends.mono {o : Host.Outcome State Fault Refusal} {P Q : State → Prop} (h : Ends o P) (hpq : ∀ t, P t → Q t) :
    Ends o Q := by
  cases o with
  | next t => exact hpq t h
  | fault f => trivial
  | refused r => exact h

theorem Meets.outcome {x : Attempt State} {P : State → Prop} (h : Meets x P) : Ends x.outcome P := by
  rcases x with (f | r) | t
  · trivial
  · exact fun hr => h (congrArg Stop.refusal hr)
  · exact h

/-! ### Updates that keep the configuration and the invariant -/

/-- From `s` to `t` the configuration stays, and the invariant if it held. -/
structure Sound (s t : State) : Prop where
  config : ConfigKept s t
  inv    : s.Inv → t.Inv

theorem Sound.trans {s t u : State} (h : Sound s t) (k : Sound t u) : Sound s u := by
  obtain ⟨⟨hbus, hfacades, hdevdb, hsep, hnum, hport⟩, hinv⟩ := h
  obtain ⟨⟨kbus, kfacades, kdevdb, ksep, knum, kport⟩, kinv⟩ := k
  exact ⟨⟨kbus.trans hbus, kfacades.trans hfacades, kdevdb.trans hdevdb, ksep.trans hsep, knum.trans hnum,
    kport.trans hport⟩, kinv ∘ hinv⟩

/-- Of the latches, the pipeline registers, ECHO, the result port, RXQ, the line, HWERR and DIAG neither the
configuration nor the invariant speaks: they may become those of any state `u`. -/
theorem sound_unwatched (s u : State) : Sound s { s with
    echo := u.echo, op := u.op, id := u.id, instr := u.instr, params := u.params, regAddr := u.regAddr
    rlen := u.rlen, data := u.data, raw := u.raw, comb := u.comb, val := u.val, spec := u.spec, result := u.result
    rxq := u.rxq, line := u.line, hwerr := u.hwerr, diag := u.diag } :=
  ⟨⟨rfl, rfl, rfl, rfl, rfl, rfl⟩, fun h => { h with }⟩

theorem latchOp_sound (x : HostOp) (s : State) : Sound s (latchOp x s) := sound_unwatched s (latchOp x s)

theorem deliver_sound (r : OpResult) (s : State) : Sound s (deliver r s) := sound_unwatched s (deliver r s)

theorem note_sound (d : Diag) (s : State) : Sound s (note d s) := sound_unwatched s (note d s)

theorem latchRequest_sound (a i : Byte) (p : List Byte) (s : State) : Sound s (latchRequest a i p s) :=
  sound_unwatched s (latchRequest a i p s)

theorem runCrc_sound (b : List Byte) (s : State) : Sound s (runCrc b s) :=
  ⟨⟨rfl, rfl, rfl, rfl, rfl, rfl⟩, fun h => { h with }⟩

/-- Both ways of leaving a notification leave none in progress. -/
theorem fireHooks_sound (place : Nat) (f : Facade) (payload : List Byte) (s : State) :
    Sound s (fireHooks place f payload s) := by
  unfold fireHooks
  split
  · rw [notifyAll_eq]
    exact ⟨⟨rfl, rfl, rfl, rfl, rfl, rfl⟩, fun h => { h with quiet := rfl }⟩
  · exact sound_unwatched s s

/-! ### A transaction -/

theorem exchange_hdr_length (p : List Byte) (line : List LineStep) : (exchange p line).hdr.length ≤ 7 := by
  have : atMost (line.getD 3 {}).limit 7 ≤ 7 := by unfold atMost; split <;> simp
  simp only [exchange, List.length_take]
  omega

theorem exchange_body_length (p : List Byte) (line : List LineStep) :
    (exchange p line).body.length ≤ lenIn (exchange p line).hdr := by
  have : ∀ limit n, atMost limit n ≤ n := fun limit n => by unfold atMost; split <;> simp
  exact (List.length_take_le _ _).trans (this _ _)

theorem allEvents_allowed (p : List Byte) (x : Exchange) : ∀ e ∈ allEvents p x, e.2.allowedIn e.1 = true := by
  simp [allEvents, TransportEvent.allowedIn]

/-- Where none of the first six conditions fails, the verdict is step 9's (R139). -/
theorem verdict_step9 {p : List Byte} {x : Exchange} {v : Option TxError} (h : verdict p x = v)
    (hv : ∀ e, v = some e → e = .servoReportedError) :
    (if (x.resp.getD 8 0).toNat % 128 ≠ 0 then some TxError.servoReportedError else none) = v := by
  have pass : ∀ {c : Prop} [Decidable c] {e : TxError} {u : Option TxError}, e ≠ .servoReportedError →
      (if c then some e else u) = v → u = v := by
    intro c _ e u he hu
    split at hu
    · exact absurd (hv e hu.symm) he
    · exact hu
  simp only [verdict] at h
  exact pass (by decide) (pass (by decide) (pass (by decide) (pass (by decide) (pass (by decide) (pass (by decide) h)))))

theorem errByte_of_verdict_none {p : List Byte} {x : Exchange} (h : verdict p x = none) :
    errorBitsSet (x.resp.getD 8 0) = false := by
  have hstep := verdict_step9 h nofun
  split at hstep
  · cases hstep
  · next hbits => exact Bool.eq_false_iff.2 (mt (errorBitsSet_iff _).1 hbits)

theorem errByte_of_verdict_servo {p : List Byte} {x : Exchange} (h : verdict p x = some .servoReportedError) :
    errorBitsSet (x.resp.getD 8 0) = true := by
  have hstep := verdict_step9 h fun _ he => (Option.some.inj he).symm
  split at hstep
  · next hbits => exact (errorBitsSet_iff _).2 hbits
  · cases hstep

/-- A transaction keeps the configuration, and leaves a state that meets the invariant. -/
theorem finalState_sound {p : List Byte} {s : State} {v : Option TxError} (hp : Framed p)
    (hv : verdict p (exchange p s.line) = v) : Sound s (finalState p (exchange p s.line) s v) := by
  refine ⟨⟨rfl, rfl, rfl, rfl, rfl, rfl⟩, fun h => { h with
    idle := rfl, txbuf := .inr hp, hdr := ?_, body := ?_, okByte := ?_, servoByte := ?_, events := ?_ }⟩
  · rw [finalState, apply_ite List.length]
    split
    · exact h.hdr
    · exact exchange_hdr_length p s.line
  · rw [finalState]
    cases reachesBody v
    · exact h.body
    · exact headerLen_toNat _ ▸ exchange_body_length p s.line
  · cases v with
    | none => exact fun _ => errByte_of_verdict_none hv
    | some e => exact nofun
  · intro herr
    cases v with
    | none => cases herr
    | some e =>
      cases herr
      exact errByte_of_verdict_servo hv
  · intro e he
    obtain he | he := List.mem_append.1 he
    · exact h.events e he
    · exact allEvents_allowed p _ e (List.mem_of_mem_take he)

theorem transactOp_meets (a i : Byte) (p : List Byte) (s : State) :
    Meets (transactOp a i p s) fun r => Sound s r.2 := by
  rw [transactOp_eq]
  split_ifs with hlong hopen
  · exact nofun
  · rw [runTransaction_eq a i p _ _ _ rfl rfl]
    exact (latchRequest_sound a i p s).trans (finalState_sound ⟨a, i, p, by omega, rfl⟩ rfl)
  · exact nofun

theorem pingOp_meets (a : Byte) (s : State) : Meets (pingOp a s) fun r => Sound s r.2 :=
  (transactOp_meets a _ _ s).bind fun _ h => h

theorem readOp_meets (a : Byte) (reg num : Word) (s : State) : Meets (readOp a reg num s) fun r => Sound s r.2 :=
  (transactOp_meets a _ _ { s with regAddr := reg, rlen := num }).bind fun _ h =>
    (sound_unwatched s { s with regAddr := reg, rlen := num }).trans h

theorem writeOp_meets (a : Byte) (reg : Word) (d : List Byte) (s : State) :
    Meets (writeOp a reg d s) fun r => Sound s r.2 :=
  (transactOp_meets a _ _ { s with regAddr := reg, data := d }).bind fun _ h =>
    (sound_unwatched s { s with regAddr := reg, data := d }).trans h

/-! ### The register data model -/

theorem ds4Cast_meets (tag : TypeTag) (raw : List Byte) (v : Rat) : Meets (ds4Cast tag raw v) fun _ => True := by
  cases tag <;> simp only [ds4Cast]
  case hex => split <;> simp [Meets, refuse]
  all_goals trivial

theorem decodeOp_meets (raw : List Byte) (spec : Option DisplaySpec) (s : State) :
    Meets (decodeOp raw spec s) fun r => Sound s r.2 := by
  obtain h | ⟨d, rfl, h⟩ := passesThrough_or_numeric spec
  · rw [decodeOp_of_passesThrough h]
    exact sound_unwatched s { s with raw := raw, spec := spec }
  · rw [decodeOp_of_numeric h]
    exact (ds4Cast_meets _ _ _).bind fun _ _ => sound_unwatched s { s with
      raw := raw, spec := some d, comb := fromLe raw, val := engineering s.num d raw }

theorem passBytes_meets (v : Value) : Meets (passBytes v) fun _ => True := by
  cases v <;> simp [Meets, passBytes, refuse]

theorem es0Check_meets (d : DisplaySpec) : Meets (es0Check d) fun _ => True := by
  unfold es0Check
  split_ifs <;> simp [Meets, refuse]

theorem es1Parse_meets (tag : TypeTag) (v : Value) : Meets (es1Parse tag v) fun _ => True := by
  unfold es1Parse
  split
  case h_2 => split <;> simp [Meets, refuse]
  case h_5 => split <;> simp [Meets, refuse]
  all_goals simp [Meets, refuse]

theorem es6Emit_meets (v : Rat) : Meets (es6Emit v) fun _ => True := by
  unfold es6Emit
  split <;> simp [Meets, refuse]

theorem encodeOp_meets (v : Value) (spec : Option DisplaySpec) (s : State) :
    Meets (encodeOp v spec s) fun r => Sound s r.2 := by
  obtain h | ⟨d, rfl, h⟩ := passesThrough_or_numeric spec
  · rw [encodeOp_of_passesThrough h]
    exact (passBytes_meets v).bind fun _ _ => sound_unwatched s { s with spec := spec }
  · rw [encodeOp_of_numeric h]
    exact (es0Check_meets d).bind fun _ _ => (es1Parse_meets _ v).bind fun q _ => (es6Emit_meets _).bind fun _ _ =>
      sound_unwatched s { s with spec := some d, val := rawNumber s.num d q }

/-! ### Facades -/

theorem facadeAt_meets (place : Nat) (s : State) : Meets (facadeAt place s) fun _ => True := by
  unfold facadeAt
  split
  · exact nofun
  · split <;> simp [Meets, refuse]

theorem selectOn_meets (f : Facade) (sel : RegSel) (s : State) : Meets (selectOn f sel s) fun _ => True := by
  unfold selectOn
  split
  · exact nofun
  · split
    · split <;> simp [Meets, refuse]
    · exact nofun

theorem checkMap_meets (map : List RegDescriptor) : Meets (checkMap map) fun _ => True := by
  unfold checkMap
  split <;> simp [Meets, refuse]

theorem pad_meets (d : List Byte) (size : Nat) : Meets (pad d size) fun _ => True := by
  unfold pad
  split <;> simp [Meets, refuse]

theorem getAnswer_meets (place : Nat) (f : Facade) (reg : RegDescriptor) (r : Option (List Byte) × State) :
    Meets (getAnswer place f reg r) fun a => Sound r.2 a.2 := by
  obtain ⟨r, s⟩ := r
  cases r with
  | none => exact note_sound _ s
  | some p => exact (decodeOp_meets _ _ _).bind fun _ h => (fireHooks_sound place f p s).trans h

theorem setAnswer_sound (place : Nat) (f : Facade) (r : Option (List Byte) × State) :
    Sound r.2 (setAnswer place f r).2 := by
  obtain ⟨r, s⟩ := r
  cases r with
  | none => exact note_sound _ s
  | some p => exact fireHooks_sound place f p s

theorem getOp_meets (place : Nat) (sel : RegSel) (s : State) : Meets (getOp place sel s) fun r => Sound s r.2 := by
  rw [getOp_eq]
  refine (facadeAt_meets place s).bind fun f _ => (selectOn_meets f sel s).bind fun c _ => ?_
  split
  · exact (checkMap_meets _).bind fun _ _ => (readOp_meets _ _ _ s).bind fun r hr =>
      (getAnswer_meets place f c.2 r).mono fun _ ha => hr.trans ha
  · exact nofun

theorem setOp_meets (place : Nat) (sel : RegSel) (v : Value) (s : State) :
    Meets (setOp place sel v s) fun r => Sound s r.2 := by
  rw [setOp_eq]
  refine (facadeAt_meets place s).bind fun f _ => (selectOn_meets f sel s).bind fun c _ => ?_
  split
  · exact (encodeOp_meets v _ s).bind fun _ he => (checkMap_meets _).bind fun _ _ => (pad_meets _ _).bind fun _ _ =>
      (writeOp_meets _ _ _ _).bind fun r hr => (he.trans hr).trans (setAnswer_sound place f r)
  · exact nofun

/-! ### Every instruction -/

/-- An operation begins by latching OP and ends by delivering its answer. -/
theorem Meets.delivered {α : Type} {op : HostOp} {s : State} {x : Attempt (α × State)}
    (h : Meets x fun r => Sound (latchOp op s) r.2) (g : α → OpResult) :
    Ends (Attempt.outcome (x >>= fun r => .ok (deliver (g r.1) r.2))) (Sound s) :=
  Meets.outcome (h.bind fun r hr => ((latchOp_sound op s).trans hr).trans (deliver_sound (g r.1) r.2))

theorem checkParams_meets (p : List Byte) : Meets (checkParams p) fun _ => p.length ≤ Config.maxParams := by
  unfold checkParams
  split
  · exact nofun
  · exact not_lt.1 ‹_›

theorem checkOpen_meets (s : State) : Meets (checkOpen s) fun _ => True := by
  unfold checkOpen
  split <;> simp [Meets, stuck]

/-- SEND_BLIND's step: one write in S2, and PHASE is back at IDLE. -/
theorem step2_sound {a i : Byte} {p : List Byte} (hp : p.length ≤ Config.maxParams) (s : State) :
    Sound s (returnIdle (step2 a i p s)) := by
  rw [step2_eq]
  refine ⟨⟨rfl, rfl, rfl, rfl, rfl, rfl⟩, fun h => { h with
    idle := rfl, txbuf := .inr ⟨a, i, p, hp, rfl⟩, events := fun e he => ?_ }⟩
  obtain he | he := List.mem_append.1 he
  · exact h.events e he
  · rw [List.mem_singleton.1 he]
    rfl

/-- Every instruction that completes keeps the configuration and the invariant, and none stops as re-entrant. -/
theorem exec_ends (i : Instr) (s : State) : Ends (exec i s) (Sound s) := by
  cases i with
  | pktPing id crc => exact (pingOp_meets id _).delivered .model
  | pktRead id reg num crc => exact (readOp_meets id reg num _).delivered .payload
  | pktWrite id len reg d crc => exact (writeOp_meets id reg d _).delivered .payload
  | pktStatus id len e d crc => exact deliver_sound _ s
  | crc16 b seed => exact ((latchOp_sound _ s).trans (runCrc_sound b _)).trans (deliver_sound _ _)
  | buildPacket a c p => exact Meets.outcome ((checkParams_meets p).bind fun _ _ =>
      ((latchOp_sound _ s).trans (latchRequest_sound a c p _)).trans ((runCrc_sound _ _).trans (deliver_sound _ _)))
  | transact a c p => exact (transactOp_meets a c p _).delivered .transacted
  | ping a => exact (pingOp_meets a _).delivered .model
  | read a reg num => exact (readOp_meets a reg num _).delivered .payload
  | write a reg d => exact (writeOp_meets a reg d _).delivered .payload
  | sendBlind a c p => exact Meets.outcome ((checkParams_meets p).bind fun _ hp => (checkOpen_meets s).bind fun _ _ =>
      ((latchOp_sound _ s).trans (latchRequest_sound a c p _)).trans ((step2_sound hp _).trans (deliver_sound _ _)))
  | decode raw spec => exact (decodeOp_meets raw spec _).delivered .value
  | encode v spec => exact (encodeOp_meets v spec _).delivered .bytes
  | get place sel => exact (getOp_meets place sel _).delivered .gotValue
  | set place sel v => exact (setOp_meets place sel v _).delivered .flag
  | devPing place => exact Meets.outcome ((facadeAt_meets place s).bind fun f _ =>
      (pingOp_meets f.fid _).bind fun r hr => ((latchOp_sound .devPing s).trans hr).trans (deliver_sound _ r.2))

/-- Settles O46: the configuration's part of what every instruction keeps. -/
theorem operationsKeepConfiguration : Obligations.OperationsKeepConfiguration := by
  intro i s t h
  have hends := exec_ends i s
  rw [h] at hends
  exact hends.config

/-! ### Every request -/

/-- Every request that is run keeps the invariant, and none stops as re-entrant. -/
theorem runRequest_ends (r : Request) {s : State} (h : s.Inv) : Ends (runRequest r s) State.Inv := by
  cases r with
  | command bytes =>
    rw [runRequest]
    cases decodeCommand bytes with
    | ok i => exact (exec_ends i s).mono fun _ ht => ht.inv h
    | error e => exact nofun
  | registerHook place hook =>
    rw [runRequest, registerHook]
    split
    · refine { h with maps := fun f hf m hm => ?_ }
      obtain ⟨k, hk⟩ := List.mem_iff_getElem?.1 hf
      rw [List.getElem?_modify] at hk
      obtain ⟨g, hg, rfl⟩ := Option.map_eq_some_iff.1 hk
      refine h.maps g (List.mem_of_getElem? hg) m ?_
      split at hm <;> exact hm
    · exact nofun
  | createFacade fid number =>
    rw [runRequest, createFacade]
    split
    · next hwf =>
      refine { h with maps := fun f hf m hm => ?_ }
      obtain hf | hf := List.mem_append.1 hf
      · exact h.maps f hf m hm
      · rw [List.mem_singleton.1 hf] at hm
        exact (Option.all_eq_true _ _).1 hwf m hm
    · exact nofun
  | closeTransport => exact { h with }
  | reset =>
    refine { h with
      idle := rfl, hdr := Nat.zero_le _, body := Nat.zero_le _, txbuf := .inl rfl
      okByte := fun _ => show errorBitsSet 0 = false by decide, servoByte := nofun, maps := fun f hf m hm => ?_ }
    obtain ⟨g, hg, rfl⟩ := List.mem_map.1 hf
    exact h.maps g hg m hm

/-- A step from a state that meets the invariant answers one, and never stops as re-entrant. -/
theorem step_ends {s : State} (h : s.Inv) : Ends (step s) State.Inv := by
  cases hp : s.port with
  | nil =>
    rw [step, takeRequest, hp]
    exact h
  | cons r rest =>
    rw [step_run hp h.idle h.quiet]
    exact runRequest_ends r { h with }

/-- Settles O2: nothing has happened yet, and the one facade has no model. -/
theorem resetMeetsInvariant : Obligations.ResetMeetsInvariant where
  idle := rfl
  quiet := rfl
  hdr := Nat.zero_le _
  body := Nat.zero_le _
  txbuf := .inl rfl
  okByte := fun _ => rfl
  servoByte := nofun
  events := nofun
  maps := by
    intro f hf m hm
    rw [List.mem_singleton.1 hf] at hm
    cases hm

/-- Settles O53: an idle and quiet block runs its next request, and every request keeps the invariant. -/
theorem stepKeepsInvariant : Obligations.StepKeepsInvariant := by
  intro s t h hstep
  have hends := step_ends h
  rwa [hstep] at hends

/-- The invariant along a run of any length. -/
theorem run_ends (n : Nat) : ∀ {s : State}, s.Inv → Ends (core.run n s) State.Inv := by
  induction n with
  | zero => exact fun h => h
  | succ n ih =>
    intro s h
    have hstep : Ends (core.step s) State.Inv := step_ends h
    simp only [Host.Core.run]
    cases hnext : core.step s with
    | next t =>
      rw [hnext] at hstep
      exact ih hstep
    | fault f => trivial
    | refused r =>
      rw [hnext] at hstep
      exact hstep

/-- Settles O54: the invariant says idle and quiet, and no step from it stops as re-entrant. -/
theorem runsAreNeverBusy : Obligations.RunsAreNeverBusy := by
  intro s h n
  have hends := run_ends n h
  refine ⟨fun hrun => ?_, fun t hrun => ?_⟩
  · rw [hrun] at hends
    exact hends rfl
  · rw [hrun] at hends
    exact ⟨hends.idle, hends.quiet⟩

/-! ### What a request does to the configuration -/

/-- The parameters, the bus's identity and every facade's BUSREF, FID and MODEL stay; HOOKS grows at its end, or is emptied
where `reset` says so (R33, R34, R205, R248). -/
def OnlyHooks (reset : Prop) (s t : State) : Prop :=
  t.devdb = s.devdb ∧ t.nameSep = s.nameSep ∧ t.num = s.num ∧
    t.bus.ident = s.bus.ident ∧ t.bus.transport = s.bus.transport ∧
    ∀ (k : Nat) (f : Facade), s.facades[k]? = some f → ∃ f', t.facades[k]? = some f' ∧
      f'.busRef = f.busRef ∧ f'.fid = f.fid ∧ f'.model = f.model ∧
      ((∃ more, f'.hooks = f.hooks ++ more) ∨ f'.hooks = [] ∧ reset)

theorem onlyHooks_of_configKept {reset : Prop} {s t : State} (h : ConfigKept s t) : OnlyHooks reset s t := by
  obtain ⟨hbus, hfacades, hdevdb, hsep, hnum, -⟩ := h
  rw [OnlyHooks, hbus, hfacades]
  exact ⟨hdevdb, hsep, hnum, rfl, rfl, fun k f hf => ⟨f, hf, rfl, rfl, rfl, .inl ⟨[], (List.append_nil _).symm⟩⟩⟩

theorem runRequest_onlyHooks {r : Request} {s t : State} (h : runRequest r s = .next t) : OnlyHooks (r = .reset) s t := by
  cases r with
  | command bytes =>
    rw [runRequest] at h
    split at h
    · exact onlyHooks_of_configKept (operationsKeepConfiguration _ s t h)
    · cases h
  | registerHook place hook =>
    rw [runRequest, registerHook] at h
    split at h <;> cases h
    refine ⟨rfl, rfl, rfl, rfl, rfl, fun k f hf => ?_⟩
    simp only [List.getElem?_modify, hf]
    by_cases hk : place = k
    · exact ⟨_, rfl, by simp [hk]⟩
    · exact ⟨_, rfl, by simp [hk]⟩
  | createFacade fid number =>
    rw [runRequest, createFacade] at h
    split at h <;> cases h
    refine ⟨rfl, rfl, rfl, rfl, rfl, fun k f hf => ⟨f, ?_, rfl, rfl, rfl, .inl ⟨[], (List.append_nil _).symm⟩⟩⟩
    exact (List.getElem?_append_left (List.getElem?_eq_some_iff.1 hf).1).trans hf
  | closeTransport =>
    cases h
    exact ⟨rfl, rfl, rfl, rfl, rfl, fun k f hf => ⟨f, hf, rfl, rfl, rfl, .inl ⟨[], (List.append_nil _).symm⟩⟩⟩
  | reset =>
    cases h
    refine ⟨rfl, rfl, rfl, rfl, rfl, fun k f hf => ⟨{ f with hooks := [] }, ?_, rfl, rfl, rfl, .inr ⟨rfl, rfl⟩⟩⟩
    rw [resetBlock_facades, List.getElem?_map, hf, Option.map_some]

/-- Settles O47: a step that changes the state has run the request at the head of the port. -/
theorem onlyHooksChange : Obligations.OnlyHooksChange := by
  intro s t hstep
  obtain ⟨-, rfl⟩ | ⟨r, rest, hp, -, -, hrun⟩ := step_next hstep
  · exact onlyHooks_of_configKept ⟨rfl, rfl, rfl, rfl, rfl, rfl⟩
  · have hhead : (r = .reset) = (s.port.head? = some .reset) := by rw [hp, List.head?_cons, Option.some.injEq]
    have honly := runRequest_onlyHooks hrun
    rw [hhead] at honly
    exact honly

/-- Settles O1: the values are those `State.reset` lists. -/
theorem resetRegisters : Obligations.ResetRegisters :=
  ⟨rfl, rfl, rfl, fun f hf => by rw [List.mem_singleton.1 hf], rfl, rfl, rfl, rfl⟩

end Sys2Proof.Claims

/-! PROOF. The CRC engine and the packet codec as instructions (40_crc R105; 41_packet_codec R115 to R122). -/

namespace Sys2Proof.Claims

open Sys2Proof.Machine

/-- Settles O3: the engine is the loop over integers, and the seed is not looked at. -/
theorem crc16RunsTheLoop : Obligations.Crc16RunsTheLoop :=
  ⟨fun bytes _ _ => ⟨_, rfl, crc16_toNat bytes, rfl, rfl⟩, rfl, by decide +kernel⟩

/-! ### Built packets -/

/-- A 16-bit field is its low byte and 256 times its high byte (R54). -/
theorem le16_toNat (v : Word) : (v.extractLsb' 0 8).toNat + 256 * (v.extractLsb' 8 8).toNat = v.toNat := by
  rw [← word16_toNat, le16_bytes]

theorem dropLast2_append_le16 (b : List Byte) (v : Word) : dropLast2 (b ++ le16 v) = b := by
  simp [dropLast2]

/-- A sequence that ends in a 16-bit field, by its last two bytes. -/
theorem append_le16_eq (b : List Byte) (v : Word) : b ++ le16 v = b ++
    [(b ++ le16 v).getD ((b ++ le16 v).length - 2) 0, (b ++ le16 v).getD ((b ++ le16 v).length - 1) 0] := by
  simp [le16]

/-- The length field of a built packet counts the parameters and three (R116). -/
theorem buildPacketBytes_lenField (a c : Byte) {p : List Byte} (hp : p.length ≤ 65532) :
    ((buildPacketBytes a c p).getD 5 0).toNat + 256 * ((buildPacketBytes a c p).getD 6 0).toNat = p.length + 3 := by
  have hfield := le16_toNat (BitVec.ofNat 16 (p.length + 3))
  rw [BitVec.toNat_ofNat, Nat.mod_eq_of_lt (by omega)] at hfield
  rw [buildPacketBytes_eq]
  exact hfield

/-- R76's layout, with the length field and the checksum as the bytes that stand there. -/
theorem buildPacketBytes_layout (a c : Byte) (p q : List Byte) (hq : q = buildPacketBytes a c p) :
    q = [0xFF, 0xFF, 0xFD, 0x00, a] ++ [q.getD 5 0, q.getD 6 0] ++ [c] ++ p ++
      [q.getD (q.length - 2) 0, q.getD (q.length - 1) 0] := by
  have hlen : [q.getD 5 0, q.getD 6 0] = le16 (BitVec.ofNat 16 (p.length + 3)) := by
    rw [hq, buildPacketBytes_eq]
    rfl
  have hbody : [0xFF, 0xFF, 0xFD, 0x00, a] ++ [q.getD 5 0, q.getD 6 0] ++ [c] ++ p = packetBody a c p := by
    rw [hlen]
    rfl
  rw [hbody, hq, buildPacketBytes]
  exact append_le16_eq _ _

/-- BUILD_PACKET on parameters that fit, and all it writes. -/
theorem exec_buildPacket (a c : Byte) {p : List Byte} (hp : p.length ≤ 65532) (s : State) :
    exec (.buildPacket a c p) s = .next { s with
      op := .buildPacket, id := a, instr := c, params := p, acc := crc16 (packetBody a c p)
      result := .bytes (buildPacketBytes a c p) } := by
  simp only [exec, execBuildPacket, checkParams_ok.2 hp, ok_bind, runBuild_bytes, runBuild_state, outcome_ok]
  dsimp only [deliver, latchRequest, latchOp]

/-- Settles O10: the packet's layout is its definition; the length field and the checksum are its invariants. -/
theorem builtPacketsKeepInvariants : Obligations.BuiltPacketsKeepInvariants := by
  intro address code parameters s hp
  have hlen := buildPacketBytes_lenField address code hp
  refine ⟨_, exec_buildPacket address code hp s, buildPacketBytes address code parameters, ?_, ?_,
    buildPacketBytes_layout address code parameters _ rfl, hlen, ?_, crcOk_build address code parameters⟩
  · dsimp only
  · rw [crc16_toNat, ← dropLast2.eq_1, dropLast2_build]
  · rw [hlen, buildPacketBytes_length]
    omega

/-! ### Status packets -/

/-- The bytes PKT_STATUS reads its fields from: the header, and as many more as the length field says (R87, R136). -/
theorem statusPacket_take (id : Byte) (len : Word) (e : Byte) (data : List Byte) (crc : Word) (n : Nat) :
    (layPacket id len Config.codeStatus (e :: data) crc).take (7 + n) =
      0xFF :: 0xFF :: 0xFD :: 0x00 :: id :: len.extractLsb' 0 8 :: len.extractLsb' 8 8 ::
        (0x55 :: e :: (data ++ le16 crc)).take n := by
  rw [Nat.add_comm]
  rfl

/-- From a length field of 4 on they are the whole packet. -/
theorem statusPacket_take_all {id : Byte} {len : Word} {e : Byte} {data : List Byte} {crc : Word}
    (hlen : len.toNat = data.length + 4) :
    (layPacket id len Config.codeStatus (e :: data) crc).take (7 + len.toNat) =
      layPacket id len Config.codeStatus (e :: data) crc := by
  refine List.take_of_length_le ?_
  simp [layPacket, Config.frameMarker]
  omega

/-- A status packet whose length field and checksum are those of its contents is a device's reply (R78, R122). -/
theorem layPacket_of_wellFormed {id : Byte} {len : Word} {e : Byte} {data : List Byte} {crc : Word}
    (h : WellFormed (.pktStatus id len e data crc)) :
    layPacket id len Config.codeStatus (e :: data) crc = statusReply id e data := by
  simp only [WellFormed, Instr.wf, Bool.and_eq_true, decide_eq_true_eq, beq_iff_eq] at h
  obtain ⟨hlen, rfl⟩ := h
  have hfield : len = BitVec.ofNat 16 ((e :: data).length + 3) := by
    rw [List.length_cons, Nat.add_assoc, ← hlen, BitVec.ofNat_toNat, BitVec.setWidth_eq]
  rw [hfield]
  rfl

/-- R121's first fields, and those that need one and two bytes behind the header. -/
theorem fieldsOf_statusPacket (id : Byte) (len : Word) (e : Byte) (data : List Byte) (crc : Word) (f : PacketFields)
    (hf : f = fieldsOf ((layPacket id len Config.codeStatus (e :: data) crc).take (7 + len.toNat)) len) :
    f.marker = [0xFF, 0xFF, 0xFD, 0x00] ∧ f.id = id ∧
      f.instruction = (if 1 ≤ len.toNat then some 0x55 else none) ∧
      f.errByte = (if 2 ≤ len.toNat then some e else none) := by
  rw [hf, statusPacket_take]
  refine ⟨rfl, rfl, ite_congr rfl (fun h => ?_) fun _ => rfl, ite_congr rfl (fun h => ?_) fun _ => rfl⟩
  · obtain ⟨n, hn⟩ := Nat.exists_eq_add_of_le' h
    rw [hn]
    rfl
  · obtain ⟨n, hn⟩ := Nat.exists_eq_add_of_le' h
    rw [hn]
    rfl

/-- The fields of a whole status packet, from the checksum back (R121). -/
theorem fieldsOf_whole {id : Byte} {len : Word} {e : Byte} {data : List Byte} {crc : Word} {f : PacketFields}
    (hlen : len.toNat = data.length + 4)
    (hf : f = fieldsOf ((layPacket id len Config.codeStatus (e :: data) crc).take (7 + len.toNat)) len) :
    f.covered ++ le16 f.checksum = layPacket id len Config.codeStatus (e :: data) crc ∧ f.checksum = crc ∧
      f.payload = some (e :: data) ∧ f.data = some data := by
  have hdrop : dropLast2 (layPacket id len Config.codeStatus (e :: data) crc) = _ := dropLast2_append_le16 _ _
  have htrail : trailer (layPacket id len Config.codeStatus (e :: data) crc) = crc := trailer_append_le16 _ _
  have h4 : 4 ≤ len.toNat := by omega
  rw [hf, statusPacket_take_all hlen]
  simp only [fieldsOf, payloadOf, hdrop, htrail, if_pos h4]
  exact ⟨rfl, trivial, rfl, rfl⟩

/-- Settles O12: the fields stand where R121 reads them, as far as the length field lets the packet reach. -/
theorem statusPacketFields : Obligations.StatusPacketFields := by
  intro id len errByte data crc s
  refine ⟨_, rfl, rfl, fun hdata => ⟨_, rfl, ?_⟩⟩
  obtain ⟨hmarker, hid, hcode, herr⟩ := fieldsOf_statusPacket id len errByte data crc _ rfl
  have hwhole (h : 4 ≤ len.toNat) := fieldsOf_whole (id := id) (e := errByte) (crc := crc)
    (show len.toNat = data.length + 4 by omega) rfl
  refine ⟨hmarker, hid, rfl, rfl, word16_toNat _ _, hcode, herr, ?_, ?_, fun h => ?_, fun hwf => ?_⟩
  · split
    · next h =>
      obtain ⟨-, -, hpayload, -⟩ := hwhole h
      exact hpayload
    · next h => exact if_neg h
  · split
    · next h =>
      obtain ⟨-, -, -, hdata⟩ := hwhole h
      exact hdata
    · next h => exact if_neg h
  · obtain ⟨-, hchecksum, -, -⟩ := hwhole h
    refine ⟨?_, hchecksum⟩
    simp only [List.length_take, List.length_append, List.length_cons, List.length_nil]
    omega
  · have h4 : len.toNat = data.length + 4 := by
      simp only [WellFormed, Instr.wf, Bool.and_eq_true, decide_eq_true_eq] at hwf
      exact hwf.1
    obtain ⟨hcovered, -, -, -⟩ := hwhole (by omega)
    exact hcovered.trans (layPacket_of_wellFormed hwf)

end Sys2Proof.Claims

/-! PROOF. The port and the transport seen from outside: which request a step takes (10_state R60, R66; 44_device_facade R205,
R207), and which transport events one operation makes (20_memory R59, R61, R64; 42_bus_transport R146). -/

namespace Sys2Proof.Claims

open Sys2Proof.Machine

/-! ### One operation, one packet -/

/-- From the event record `before` to `after` at most one packet was sent: no event, one write, or a flush, a write and one
to three reads, each in a phase that may have it (R64, R146). -/
def OnePacket (before after : List (Phase × TransportEvent)) : Prop :=
  ∃ new, after = before ++ new ∧ (∀ e ∈ new, e.2.allowedIn e.1 = true) ∧
    new.map (·.1) ∈ [[], [.s2], [.s1, .s2, .s3], [.s1, .s2, .s3, .s4], [.s1, .s2, .s3, .s4, .s6]]

theorem onePacket_of_eq {before after : List (Phase × TransportEvent)} (h : after = before) : OnePacket before after :=
  ⟨[], by rw [h, List.append_nil], nofun, List.mem_cons_self⟩

/-- A transaction ends after its third, fourth or fifth event (R265). -/
theorem allEvents_take_phases (p : List Byte) (x : Exchange) (v : Option TxError) :
    ((allEvents p x).take (eventCount v)).map (·.1) ∈
      [[Phase.s1, .s2, .s3], [.s1, .s2, .s3, .s4], [.s1, .s2, .s3, .s4, .s6]] := by
  have hcount : eventCount v = 3 ∨ eventCount v = 4 ∨ eventCount v = 5 := by
    unfold eventCount
    split <;> simp
  obtain h | h | h := hcount <;> simp [h, allEvents]

theorem finalState_onePacket (p : List Byte) (x : Exchange) (s : State) (v : Option TxError) :
    OnePacket s.events (finalState p x s v).events :=
  ⟨_, rfl, fun e he => allEvents_allowed p x e (List.mem_of_mem_take he),
    List.mem_cons_of_mem _ (List.mem_cons_of_mem _ (allEvents_take_phases p x v))⟩

/-- SEND_BLIND's step 2 is one write, in S2 (R154). -/
theorem step2_onePacket (a i : Byte) (p : List Byte) (s : State) : OnePacket s.events (step2 a i p s).events := by
  rw [step2_eq]
  exact ⟨[(.s2, .write (buildPacketBytes a i p))], rfl, by simp [TransportEvent.allowedIn], by simp⟩

theorem transactOp_onePacket (a i : Byte) (p : List Byte) (s : State) :
    Meets (transactOp a i p s) fun r => OnePacket s.events r.2.events := by
  rw [transactOp_eq]
  split_ifs
  · exact nofun
  · rw [runTransaction_eq a i p _ _ _ rfl rfl]
    exact finalState_onePacket _ _ (latchRequest a i p s) _
  · exact nofun

theorem pingOp_onePacket (a : Byte) (s : State) : Meets (pingOp a s) fun r => OnePacket s.events r.2.events :=
  (transactOp_onePacket a _ _ s).bind fun _ h => h

theorem readOp_onePacket (a : Byte) (reg num : Word) (s : State) :
    Meets (readOp a reg num s) fun r => OnePacket s.events r.2.events :=
  (transactOp_onePacket a _ _ { s with regAddr := reg, rlen := num }).bind fun _ h => h

theorem writeOp_onePacket (a : Byte) (reg : Word) (d : List Byte) (s : State) :
    Meets (writeOp a reg d s) fun r => OnePacket s.events r.2.events :=
  (transactOp_onePacket a _ _ { s with regAddr := reg, data := d }).bind fun _ h => h

/-! ### The register data model and the hooks make no transport event -/

theorem decodeOp_events (raw : List Byte) (spec : Option DisplaySpec) (s : State) :
    Meets (decodeOp raw spec s) fun r => r.2.events = s.events := by
  obtain h | ⟨d, rfl, h⟩ := passesThrough_or_numeric spec
  · rw [decodeOp_of_passesThrough h]
    rfl
  · rw [decodeOp_of_numeric h]
    exact (ds4Cast_meets _ _ _).bind fun _ _ => rfl

theorem encodeOp_events (v : Value) (spec : Option DisplaySpec) (s : State) :
    Meets (encodeOp v spec s) fun r => r.2.events = s.events := by
  obtain h | ⟨d, rfl, h⟩ := passesThrough_or_numeric spec
  · rw [encodeOp_of_passesThrough h]
    exact (passBytes_meets v).bind fun _ _ => rfl
  · rw [encodeOp_of_numeric h]
    exact (es0Check_meets d).bind fun _ _ => (es1Parse_meets _ v).bind fun _ _ => (es6Emit_meets _).bind fun _ _ => rfl

theorem fireHooks_events (place : Nat) (f : Facade) (payload : List Byte) (s : State) :
    (fireHooks place f payload s).events = s.events := by
  unfold fireHooks
  split
  · rw [notifyAll_eq]
  · rfl

theorem getAnswer_events (place : Nat) (f : Facade) (reg : RegDescriptor) (r : Option (List Byte) × State) :
    Meets (getAnswer place f reg r) fun a => a.2.events = r.2.events := by
  obtain ⟨r, s⟩ := r
  cases r with
  | none => exact rfl
  | some p => exact (decodeOp_events _ _ _).bind fun _ h => h.trans (fireHooks_events place f p s)

theorem setAnswer_events (place : Nat) (f : Facade) (r : Option (List Byte) × State) :
    (setAnswer place f r).2.events = r.2.events := by
  obtain ⟨r, s⟩ := r
  cases r with
  | none => rfl
  | some p => exact fireHooks_events place f p s

/-! ### Every instruction sends at most one packet -/

theorem getOp_onePacket (place : Nat) (sel : RegSel) (s : State) :
    Meets (getOp place sel s) fun r => OnePacket s.events r.2.events := by
  rw [getOp_eq]
  refine (facadeAt_meets place s).bind fun f _ => (selectOn_meets f sel s).bind fun c _ => ?_
  split
  · exact (checkMap_meets _).bind fun _ _ => (readOp_onePacket _ _ _ s).bind fun r hr =>
      (getAnswer_events place f c.2 r).mono fun _ ha => ha ▸ hr
  · exact nofun

theorem setOp_onePacket (place : Nat) (sel : RegSel) (v : Value) (s : State) :
    Meets (setOp place sel v s) fun r => OnePacket s.events r.2.events := by
  rw [setOp_eq]
  refine (facadeAt_meets place s).bind fun f _ => (selectOn_meets f sel s).bind fun c _ => ?_
  split
  · refine (encodeOp_events v _ s).bind fun e he => (checkMap_meets _).bind fun _ _ => (pad_meets _ _).bind fun d _ => ?_
    rw [← he]
    exact (writeOp_onePacket _ _ d e.2).bind fun r hr =>
      show OnePacket e.2.events (setAnswer place f r).2.events from (setAnswer_events place f r).symm ▸ hr
  · exact nofun

/-- Latching OP before and delivering the answer after make no transport event. -/
theorem Meets.deliveredOnePacket {α : Type} {op : HostOp} {s : State} {x : Attempt (α × State)}
    (h : Meets x fun r => OnePacket (latchOp op s).events r.2.events) (g : α → OpResult) :
    Ends (Attempt.outcome (x >>= fun r => .ok (deliver (g r.1) r.2))) fun t => OnePacket s.events t.events :=
  Meets.outcome (h.bind fun _ hr => hr)

theorem exec_onePacket (i : Instr) (s : State) : Ends (exec i s) fun t => OnePacket s.events t.events := by
  cases i with
  | pktPing id crc => exact (pingOp_onePacket id _).deliveredOnePacket .model
  | pktRead id reg num crc => exact (readOp_onePacket id reg num _).deliveredOnePacket .payload
  | pktWrite id len reg d crc => exact (writeOp_onePacket id reg d _).deliveredOnePacket .payload
  | pktStatus id len e d crc => exact onePacket_of_eq rfl
  | crc16 b seed => exact onePacket_of_eq rfl
  | buildPacket a c p => exact Meets.outcome ((checkParams_meets p).bind fun _ _ => onePacket_of_eq rfl)
  | transact a c p => exact (transactOp_onePacket a c p _).deliveredOnePacket .transacted
  | ping a => exact (pingOp_onePacket a _).deliveredOnePacket .model
  | read a reg num => exact (readOp_onePacket a reg num _).deliveredOnePacket .payload
  | write a reg d => exact (writeOp_onePacket a reg d _).deliveredOnePacket .payload
  | sendBlind a c p => exact Meets.outcome ((checkParams_meets p).bind fun _ _ => (checkOpen_meets s).bind fun _ _ =>
      step2_onePacket a c p (latchRequest a c p (latchOp .sendBlind s)))
  | decode raw spec => exact ((decodeOp_events raw spec _).mono fun _ => onePacket_of_eq).deliveredOnePacket .value
  | encode v spec => exact ((encodeOp_events v spec _).mono fun _ => onePacket_of_eq).deliveredOnePacket .bytes
  | get place sel => exact (getOp_onePacket place sel _).deliveredOnePacket .gotValue
  | set place sel v => exact (setOp_onePacket place sel v _).deliveredOnePacket .flag
  | devPing place => exact Meets.outcome ((facadeAt_meets place s).bind fun f _ =>
      (pingOp_onePacket f.fid (latchOp .devPing s)).bind fun _ hr => hr)

/-- Settles O23: an operation sends its one packet in a transaction or in SEND_BLIND's step 2; nothing else it does makes a
transport event. -/
theorem oneOperationOnePacket : Obligations.OneOperationOnePacket := by
  intro i s t h
  have hends := exec_onePacket i s
  rw [h] at hends
  exact hends

/-! ### What a step takes from the port -/

theorem step_empty {s : State} (hp : s.port = []) : step s = .next s := by
  rw [step, takeRequest, hp]

/-- A request during a notification is refused (R207). -/
theorem step_notifying {s : State} {r : Request} {rest : List Request} (hp : s.port = r :: rest)
    (hn : s.notifying = true) : step s = .refused .reentrantRequest := by
  simp only [step, takeRequest, hp, if_pos hn]

theorem runRequest_command {bytes : List Byte} {i : Instr} (h : decodeCommand bytes = .ok i) (s : State) :
    runRequest (.command bytes) s = exec i s := by
  rw [runRequest, h]

theorem runRequest_badCommand {bytes : List Byte} {e : DecodeError} (h : decodeCommand bytes = .error e) (s : State) :
    runRequest (.command bytes) s = .refused (.badCommand e) := by
  rw [runRequest, h]

/-- The selectors 0xC to 0xF name no host operation, whatever follows (R95). -/
theorem decodeHostOp_unassigned {selector : Byte} (hlow : 0xC ≤ selector.toNat) (hhigh : selector.toNat ≤ 0xF)
    (bytes : List Byte) : decodeHostOp selector bytes = .error .unassignedSelector := by
  unfold decodeHostOp
  interval_cases selector.toNat <;> rfl

theorem decodeCommand_unassigned {selector : Byte} (hlow : 0xC ≤ selector.toNat) (hhigh : selector.toNat ≤ 0xF)
    (bytes : List Byte) : decodeCommand (selector :: bytes) = .error .unassignedSelector := by
  have hop : selector ≠ 0xFF := by bv_omega
  rw [decodeCommand, decode, if_neg hop, decodeHostOp_unassigned hlow hhigh]

/-- REGISTER_HOOK appends to the HOOKS of a facade that stands there (R205). -/
theorem registerHook_completes {place : Nat} {f : Facade} {s : State} (hf : s.facades[place]? = some f) (hook : Hook) :
    Completes (registerHook place hook s) fun t =>
      t = { s with facades := t.facades } ∧ t.facades.length = s.facades.length ∧
      t.facades[place]? = some { f with hooks := f.hooks ++ [hook] } ∧
      ∀ k, k ≠ place → t.facades[k]? = s.facades[k]? := by
  have hplace : place < s.facades.length := (List.getElem?_eq_some_iff.1 hf).1
  rw [registerHook, if_pos hplace]
  refine ⟨_, rfl, rfl, List.length_modify .., ?_, fun k hk => ?_⟩
  · rw [List.getElem?_modify_eq, hf]
    rfl
  · exact List.getElem?_modify_ne _ _ hk.symm

/-- Settles O50: an idle block runs the request at the head of its port, and a command that decodes runs its instruction. -/
theorem stepRunsTheDecodedInstruction : Obligations.StepRunsTheDecodedInstruction := by
  intro s bytes rest i hp hi hn hdecode
  rw [step_run hp hi hn, runRequest_command hdecode]

/-- Settles O51: one lemma about the step, the decoder or REGISTER_HOOK for each clause. -/
theorem stepTakesRequests : Obligations.StepTakesRequests := by
  refine ⟨fun _ => step_empty, fun _ => step_held, fun s bytes rest e hp hi hn hdecode => ?_,
    fun _ bytes hlow hhigh => decodeCommand_unassigned hlow hhigh bytes, fun _ _ _ => step_notifying,
    fun s place hook rest f hp hi hn hf => ?_⟩
  · rw [step_run hp hi hn, runRequest_badCommand hdecode]
  · rw [step_run hp hi hn]
    exact registerHook_completes (s := { s with port := rest }) hf hook

end Sys2Proof.Claims

/-! PROOF. The encodings (30_encoding R76, R78, R95, R102): decoder and encoder are each other's inverse, on what is well
formed and on what decodes, and a packet of no code decodes to nothing. -/

namespace Sys2Proof

open Machine

/-! ### Reads in sequence -/

/-- A read with further reads behind it, of what its writer put down. -/
theorem Reads.bind {α β : Type} {rd : Reader α} {put : α → List Byte} (h : Reads rd put) (a : α) (r : List Byte)
    (f : α × List Byte → Except DecodeError β) : (rd (put a ++ r) >>= f) = f (a, r) := read_ok (h a r)

/-- Where a read and those behind it succeed, it has taken up what its writer puts down. -/
theorem Spells.bind {α β : Type} {rd : Reader α} {put : α → List Byte} (h : Spells rd put) {bs : List Byte} {b : β}
    {f : α × List Byte → Except DecodeError β} (hb : (rd bs >>= f) = .ok b) :
    ∃ a r, bs = put a ++ r ∧ f (a, r) = .ok b := by
  obtain ⟨⟨a, r⟩, hrd, hf⟩ := read_bind hb
  exact ⟨a, r, (h _ _ _ hrd).symm, hf⟩

/-! ### Host operations -/

/-- No selector is the first byte of the frame marker. -/
theorem decode_putOp (op : HostOp) (bs : List Byte) : decode (putOp op :: bs) = decodeHostOp (putOp op) bs :=
  if_neg (by cases op <;> decide)

/-- BUILD_PACKET, TRANSACT and SEND_BLIND have the same operands. -/
theorem decode_request {op : HostOp} {mk : Byte → Byte → List Byte → Instr}
    (h : ∀ bs, decodeHostOp (putOp op) bs = readRequest bs >>= fun q => .ok (mk q.1.1 q.1.2.1 q.1.2.2, q.2))
    (a i : Byte) (p r : List Byte) : decode (putOp op :: a :: i :: putBytes p ++ r) = .ok (mk a i p, r) := by
  rw [List.cons_append, decode_putOp, h]
  exact reads_request.bind (a, i, p) r _

/-- What decodes to a host operation is its selector and its operands. -/
theorem encode_of_decodeHostOp {selector : Byte} {bs r : List Byte} {i : Instr}
    (h : decodeHostOp selector bs = .ok (i, r)) : encode i ++ r = selector :: bs := by
  have hput : ∀ op, selector.toNat = (putOp op).toNat → putOp op = selector := fun _ h => BitVec.eq_of_toNat_eq h.symm
  unfold decodeHostOp at h
  split at h
  case h_1 hsel =>
    obtain ⟨b, _, rfl, h1⟩ := spells_bytes.bind h
    obtain ⟨seed, _, rfl, h2⟩ := (spells_option spells_word).bind h1
    cases h2
    rw [encode, hput .crc16 hsel, List.cons_append, List.append_assoc]
  case h_2 hsel | h_3 hsel | h_7 hsel =>
    obtain ⟨q, _, rfl, h1⟩ := spells_request.bind h
    cases h1
    rw [encode, hput]
    exacts [rfl, hsel]
  case h_4 hsel =>
    obtain ⟨a, _, rfl, h1⟩ := spells_byte.bind h
    cases h1
    rw [encode, hput .ping hsel]
    rfl
  case h_5 hsel =>
    obtain ⟨a, _, rfl, h1⟩ := spells_byte.bind h
    obtain ⟨reg, _, rfl, h2⟩ := spells_word.bind h1
    obtain ⟨n, _, rfl, h3⟩ := spells_word.bind h2
    cases h3
    rw [encode, hput .read hsel, List.cons_append, List.cons_append, List.append_assoc]
    rfl
  case h_6 hsel =>
    obtain ⟨a, _, rfl, h1⟩ := spells_byte.bind h
    obtain ⟨reg, _, rfl, h2⟩ := spells_word.bind h1
    obtain ⟨d, _, rfl, h3⟩ := spells_bytes.bind h2
    cases h3
    rw [encode, hput .write hsel, List.cons_append, List.cons_append, List.append_assoc]
    rfl
  case h_8 hsel =>
    obtain ⟨b, _, rfl, h1⟩ := spells_bytes.bind h
    obtain ⟨spec, _, rfl, h2⟩ := (spells_option spells_spec).bind h1
    cases h2
    rw [encode, hput .decode hsel, List.cons_append, List.append_assoc]
  case h_9 hsel =>
    obtain ⟨v, _, rfl, h1⟩ := spells_value.bind h
    obtain ⟨spec, _, rfl, h2⟩ := (spells_option spells_spec).bind h1
    cases h2
    rw [encode, hput .encode hsel, List.cons_append, List.append_assoc]
  case h_10 hsel =>
    obtain ⟨f, _, rfl, h1⟩ := spells_nat.bind h
    obtain ⟨sel, _, rfl, h2⟩ := spells_sel.bind h1
    cases h2
    rw [encode, hput .get hsel, List.cons_append, List.append_assoc]
  case h_11 hsel =>
    obtain ⟨f, _, rfl, h1⟩ := spells_nat.bind h
    obtain ⟨sel, _, rfl, h2⟩ := spells_sel.bind h1
    obtain ⟨v, _, rfl, h3⟩ := spells_value.bind h2
    cases h3
    rw [encode, hput .set hsel, List.cons_append, List.append_assoc, List.append_assoc]
  case h_12 hsel =>
    obtain ⟨f, _, rfl, h1⟩ := spells_nat.bind h
    cases h1
    rw [encode, hput .devPing hsel, List.cons_append]
  case h_13 => cases h

/-! ### Packets -/

/-- The bytes before a packet's parameters (R76). -/
def packetHeader (id : Byte) (len : Word) (code : Byte) : List Byte := Config.frameMarker ++ [id] ++ le16 len ++ [code]

theorem layPacket_append (id : Byte) (len : Word) (code : Byte) (p : List Byte) (crc : Word) (r : List Byte) :
    layPacket id len code p crc ++ r = packetHeader id len code ++ (p ++ (le16 crc ++ r)) := by
  simp only [layPacket, packetHeader, List.append_assoc]

/-- The header's eight bytes as the decoder takes them apart. -/
theorem packetHeader_word16 (id lenL lenH code : Byte) (bs : List Byte) :
    packetHeader id (word16 lenL lenH) code ++ bs = 0xFF :: 0xFF :: 0xFD :: 0x00 :: id :: lenL :: lenH :: code :: bs := by
  rw [packetHeader, word16_bytes]
  rfl

/-- How a packet's row is found and its operands are read, once its header stands there (R102). -/
theorem decode_packetHeader (id : Byte) (len : Word) (code : Byte) (bs : List Byte) :
    decode (packetHeader id len code ++ bs) =
      if code = Config.codePing ∧ len = 3 then readWord bs >>= fun c => .ok (.pktPing id c.1, c.2)
      else if code = Config.codeRead ∧ len = 7 then
        readWord bs >>= fun reg => readWord reg.2 >>= fun num => readWord num.2 >>= fun c =>
          .ok (.pktRead id reg.1 num.1 c.1, c.2)
      else if code = Config.codeWrite then
        readWord bs >>= fun reg => readExactly (len.toNat - 5) reg.2 >>= fun d => readWord d.2 >>= fun c =>
          .ok (.pktWrite id len reg.1 d.1 c.1, c.2)
      else if code = Config.codeStatus then
        readByte bs >>= fun e => readExactly (len.toNat - 4) e.2 >>= fun d => readWord d.2 >>= fun c =>
          .ok (.pktStatus id len e.1 d.1 c.1, c.2)
      else .error .noSuchPacket := by
  rw [← le16_bytes len, packetHeader_word16]
  rfl

/-- Whatever decodes as a packet begins with such a header. -/
theorem packetHeader_of_decodePacket {bytes r : List Byte} {i : Instr} (h : decodePacket bytes = .ok (i, r)) :
    ∃ id len code bs, bytes = packetHeader id len code ++ bs := by
  unfold decodePacket at h
  split at h
  · next m0 m1 m2 m3 id lenL lenH code bs =>
    refine ⟨id, word16 lenL lenH, code, bs, ?_⟩
    have hmarker : [m0, m1, m2, m3] = Config.frameMarker := by
      by_contra hne
      simp only [if_pos hne] at h
      cases h
    rw [packetHeader, ← hmarker, word16_bytes]
    rfl
  · cases h

/-- What decodes to a packet is the packet's layout. -/
theorem encode_of_decode_packetHeader {id : Byte} {len : Word} {code : Byte} {bs r : List Byte} {i : Instr}
    (h : decode (packetHeader id len code ++ bs) = .ok (i, r)) : encode i ++ r = packetHeader id len code ++ bs := by
  rw [decode_packetHeader] at h
  split_ifs at h with hping hread hwrite hstatus
  · obtain ⟨rfl, rfl⟩ := hping
    obtain ⟨crc, _, rfl, h1⟩ := spells_word.bind h
    cases h1
    rw [encode, layPacket_append, List.nil_append]
  · obtain ⟨rfl, rfl⟩ := hread
    obtain ⟨reg, _, rfl, h1⟩ := spells_word.bind h
    obtain ⟨num, _, rfl, h2⟩ := spells_word.bind h1
    obtain ⟨crc, _, rfl, h3⟩ := spells_word.bind h2
    cases h3
    rw [encode, layPacket_append, readParams, List.append_assoc]
  · subst hwrite
    obtain ⟨reg, _, rfl, h1⟩ := spells_word.bind h
    obtain ⟨⟨data, _⟩, hdata, h2⟩ := read_bind h1
    obtain ⟨crc, _, rfl, h3⟩ := spells_word.bind h2
    cases h3
    rw [encode, layPacket_append, writeParams, List.append_assoc, (readExactly_ok hdata).2]
  · subst hstatus
    obtain ⟨e, _, rfl, h1⟩ := spells_byte.bind h
    obtain ⟨⟨data, _⟩, hdata, h2⟩ := read_bind h1
    obtain ⟨crc, _, rfl, h3⟩ := spells_word.bind h2
    cases h3
    rw [encode, layPacket_append, List.cons_append, (readExactly_ok hdata).2]
    rfl

/-- R88, R89: a packet whose code is none of the four matches no row, whatever its length field and what follows. -/
theorem decode_packetHeader_of_other_code {code : Byte} (hping : code ≠ Config.codePing) (hread : code ≠ Config.codeRead)
    (hwrite : code ≠ Config.codeWrite) (hstatus : code ≠ Config.codeStatus) (id : Byte) (len : Word) (bs : List Byte) :
    decode (packetHeader id len code ++ bs) = .error .noSuchPacket := by
  rw [decode_packetHeader, if_neg (hping ·.1), if_neg (hread ·.1), if_neg hwrite, if_neg hstatus]

end Sys2Proof

namespace Sys2Proof.Claims

open Sys2Proof.Machine

/-- Settles O56: by the first byte a packet or a host operation, and each reader in turn takes up what its writer puts
down. -/
theorem encodeInvertsDecoding : Obligations.EncodeInvertsDecoding := by
  intro bytes i rest h
  rcases bytes with _ | ⟨b, bs⟩
  · cases h
  by_cases hb : b = 0xFF
  · have hpacket := h
    rw [decode, if_pos hb] at hpacket
    obtain ⟨id, len, code, tail, htail⟩ := packetHeader_of_decodePacket hpacket
    rw [htail] at h ⊢
    exact encode_of_decode_packetHeader h
  · rw [decode, if_neg hb] at h
    exact encode_of_decodeHostOp h

/-- Settles O55: each reader in turn takes up what its writer put down; a length field that fits says how many data bytes
there are. -/
theorem decodeInvertsEncode : Obligations.DecodeInvertsEncode := by
  intro i rest hwf
  cases i with
  | pktPing id crc =>
    rw [encode, layPacket_append, decode_packetHeader, if_pos ⟨rfl, rfl⟩, List.nil_append, reads_word.bind]
  | pktRead id reg num crc =>
    rw [encode, layPacket_append, decode_packetHeader, if_neg (absurd ·.1 (by decide)), if_pos ⟨rfl, rfl⟩, readParams,
      List.append_assoc, reads_word.bind, reads_word.bind, reads_word.bind]
  | pktWrite id len reg data crc =>
    have hlen : data.length = len.toNat - 5 := by
      simp only [WellFormed, Instr.wf, Bool.and_eq_true, decide_eq_true_eq] at hwf
      omega
    rw [encode, layPacket_append, decode_packetHeader, if_neg (absurd ·.1 (by decide)),
      if_neg (absurd ·.1 (by decide)), if_pos rfl, writeParams, List.append_assoc, reads_word.bind, ← hlen,
      read_ok (readExactly_append _ _), reads_word.bind]
  | pktStatus id len e data crc =>
    have hlen : data.length = len.toNat - 4 := by
      simp only [WellFormed, Instr.wf, Bool.and_eq_true, decide_eq_true_eq] at hwf
      omega
    rw [encode, layPacket_append, decode_packetHeader, if_neg (absurd ·.1 (by decide)),
      if_neg (absurd ·.1 (by decide)), if_neg (by decide), if_pos rfl, List.cons_append, read_ok (readByte_cons _ _),
      ← hlen, read_ok (readExactly_append _ _), reads_word.bind]
  | crc16 b seed =>
    rw [encode, List.cons_append, decode_putOp, List.append_assoc]
    exact (reads_bytes.bind b _ _).trans ((reads_option reads_word).bind seed rest _)
  | buildPacket a c p => exact decode_request (fun _ => rfl) a c p rest
  | transact a c p => exact decode_request (fun _ => rfl) a c p rest
  | ping a =>
    rw [encode, List.cons_append, decode_putOp]
    rfl
  | read a reg n =>
    rw [encode, List.cons_append, decode_putOp, List.cons_append, List.append_assoc]
    exact (reads_byte.bind a _ _).trans ((reads_word.bind reg _ _).trans (reads_word.bind n rest _))
  | write a reg d =>
    rw [encode, List.cons_append, decode_putOp, List.cons_append, List.append_assoc]
    exact (reads_byte.bind a _ _).trans ((reads_word.bind reg _ _).trans (reads_bytes.bind d rest _))
  | sendBlind a c p => exact decode_request (fun _ => rfl) a c p rest
  | decode b spec =>
    rw [encode, List.cons_append, decode_putOp, List.append_assoc]
    exact (reads_bytes.bind b _ _).trans ((reads_option reads_spec).bind spec rest _)
  | encode v spec =>
    rw [encode, List.cons_append, decode_putOp, List.append_assoc]
    exact (reads_value.bind v _ _).trans ((reads_option reads_spec).bind spec rest _)
  | get f sel =>
    rw [encode, List.cons_append, decode_putOp, List.append_assoc]
    exact (reads_nat.bind f _ _).trans (reads_sel.bind sel rest _)
  | set f sel v =>
    rw [encode, List.cons_append, decode_putOp, List.append_assoc, List.append_assoc]
    exact (reads_nat.bind f _ _).trans ((reads_sel.bind sel _ _).trans (reads_value.bind v rest _))
  | devPing f =>
    rw [encode, List.cons_append, decode_putOp]
    exact reads_nat.bind f rest _

/-- Settles O57: the decoder evaluates on each word. -/
theorem specWordsDecode : Obligations.SpecWordsDecode :=
  ⟨by decide, by decide, by decide, by decide, by decide⟩

/-- Settles O58: the header is a packet's, and its code matches no row. -/
theorem undefinedPacketCodesAreRefused : Obligations.UndefinedPacketCodesAreRefused := by
  intro id lenL lenH code rest hping hread hwrite hstatus
  rw [decodeCommand, ← packetHeader_word16, decode_packetHeader_of_other_code hping hread hwrite hstatus]

end Sys2Proof.Claims

/-! PROOF. Instruction packets and a closed transport (30_encoding R76, R102; 70_reset_and_hazards R253): a transaction sends
the packet it builds, or it has no step. -/

namespace Sys2Proof.Claims

open Sys2Proof.Machine

/-! ### What a transaction sends -/

/-- R132: TXBUF ends as the packet that was built. -/
theorem transactOp_sends (a i : Byte) (p : List Byte) (s : State) :
    Meets (transactOp a i p s) fun r => r.2.txbuf = buildPacketBytes a i p := by
  rw [transactOp_eq]
  split_ifs
  · exact nofun
  · rw [runTransaction_eq a i p _ _ _ rfl rfl]
    exact rfl
  · exact nofun

theorem pingOp_sends (a : Byte) (s : State) :
    Meets (pingOp a s) fun r => r.2.txbuf = buildPacketBytes a Config.codePing [] :=
  (transactOp_sends a _ _ s).bind fun _ h => h

theorem readOp_sends (a : Byte) (reg num : Word) (s : State) :
    Meets (readOp a reg num s) fun r => r.2.txbuf = buildPacketBytes a Config.codeRead (readParams reg num) :=
  (transactOp_sends a _ _ { s with regAddr := reg, rlen := num }).bind fun _ h => h

theorem writeOp_sends (a : Byte) (reg : Word) (d : List Byte) (s : State) :
    Meets (writeOp a reg d s) fun r => r.2.txbuf = buildPacketBytes a Config.codeWrite (writeParams reg d) :=
  (transactOp_sends a _ _ { s with regAddr := reg, data := d }).bind fun _ h => h

theorem Ends.next {o : Host.Outcome State Fault Refusal} {P : State → Prop} {t : State} (h : Ends o P)
    (ho : o = .next t) : P t := by
  rwa [ho] at h

/-- A packet with the length field and the checksum of its contents is the one BUILD_PACKET builds (R76). -/
theorem layPacket_eq_build {id : Byte} {len : Word} {code : Byte} {p : List Byte} {crc : Word}
    (hlen : len.toNat = p.length + 3) (hcrc : crc = crc16 (packetBody id code p)) :
    layPacket id len code p crc = buildPacketBytes id code p := by
  have hfield : len = BitVec.ofNat 16 (p.length + 3) := by rw [← hlen, BitVec.ofNat_toNat, BitVec.setWidth_eq]
  subst hfield hcrc
  rfl

/-- Settles O19: the packet's operation sends the packet built of its operands, which is the packet itself. -/
theorem instructionPacketsSendThemselves : Obligations.InstructionPacketsSendThemselves := by
  rintro i s t (⟨id, crc, rfl⟩ | ⟨id, reg, num, crc, rfl⟩ | ⟨id, len, reg, data, crc, rfl⟩) hwf h
  · have hends : Ends (exec (.pktPing id crc) s) fun t => t.txbuf = buildPacketBytes id Config.codePing [] :=
      Meets.outcome ((pingOp_sends id _).bind fun _ hr => hr)
    rw [hends.next h, encode, layPacket_eq_build rfl (by simpa [WellFormed, Instr.wf] using hwf)]
  · have hends : Ends (exec (.pktRead id reg num crc) s) fun t =>
        t.txbuf = buildPacketBytes id Config.codeRead (readParams reg num) :=
      Meets.outcome ((readOp_sends id reg num _).bind fun _ hr => hr)
    rw [hends.next h, encode, layPacket_eq_build rfl (by simpa [WellFormed, Instr.wf] using hwf)]
  · have hends : Ends (exec (.pktWrite id len reg data crc) s) fun t =>
        t.txbuf = buildPacketBytes id Config.codeWrite (writeParams reg data) :=
      Meets.outcome ((writeOp_sends id reg data _).bind fun _ hr => hr)
    obtain ⟨hlen, hcrc⟩ : len.toNat = data.length + 5 ∧
        crc = crc16 (packetBody id Config.codeWrite (writeParams reg data)) := by
      simpa [WellFormed, Instr.wf] using hwf
    have hcount : len.toNat = (writeParams reg data).length + 3 := by
      rw [hlen, writeParams, List.length_append, le16_length]
      omega
    rw [hends.next h, encode, layPacket_eq_build hcount hcrc]

/-! ### A closed transport -/

@[simp] theorem stuck_bind {α β : Type} (e : Fault) (f : α → Attempt β) : (stuck e >>= f) = stuck e := rfl

theorem transactOp_closed (a i : Byte) {p : List Byte} {s : State} (hc : s.bus.isOpen = false)
    (hp : p.length ≤ Config.maxParams) : transactOp a i p s = stuck .transportClosed := by
  rw [transactOp_eq, if_neg (not_lt.2 hp), hc]
  rfl

theorem pingOp_closed (a : Byte) {s : State} (hc : s.bus.isOpen = false) : pingOp a s = stuck .transportClosed := by
  rw [pingOp, transactOp_closed a _ hc (Nat.zero_le _), stuck_bind]

theorem readOp_closed (a : Byte) (reg num : Word) {s : State} (hc : s.bus.isOpen = false) :
    readOp a reg num s = stuck .transportClosed := by
  have hfit : (readParams reg num).length ≤ Config.maxParams := by simp [readParams, Config.maxParams]
  rw [readOp, transactOp_closed (s := { s with regAddr := reg, rlen := num }) a _ hc hfit, stuck_bind]

theorem writeOp_closed (a : Byte) (reg : Word) {d : List Byte} {s : State} (hc : s.bus.isOpen = false)
    (hd : d.length ≤ 65530) : writeOp a reg d s = stuck .transportClosed := by
  have hfit : (writeParams reg d).length ≤ Config.maxParams := by
    simp [writeParams, Config.maxParams]
    omega
  rw [writeOp, transactOp_closed (s := { s with regAddr := reg, data := d }) a _ hc hfit, stuck_bind]

/-- ENCODE leaves the bus as it is. -/
theorem encodeOp_bus {v : Value} {spec : Option DisplaySpec} {s t : State} {b : List Byte}
    (h : encodeOp v spec s = .ok (b, t)) : t.bus = s.bus := by
  have hmeets := encodeOp_meets v spec s
  rw [h] at hmeets
  obtain ⟨hbus, -⟩ := hmeets.config
  exact hbus

/-- Settles O25: what the operation checks before it passes, and then the transaction has no step. -/
theorem closedTransportHasNoStep : Obligations.ClosedTransportHasNoStep := by
  intro address code parameters reg num len crc data s hc hp hd
  have hclosed : ∀ op, (latchOp op s).bus.isOpen = false := fun _ => hc
  have hping : ∀ a, exec (.ping a) s = .fault .transportClosed := fun a => by
    rw [exec, execPing, pingOp_closed a (hclosed _)]
    rfl
  have hread : exec (.read address reg num) s = .fault .transportClosed := by
    rw [exec, execRead, readOp_closed address reg num (hclosed _)]
    rfl
  have hwrite : exec (.write address reg data) s = .fault .transportClosed := by
    rw [exec, execWrite, writeOp_closed address reg (hclosed _) hd]
    rfl
  refine ⟨?_, ?_, hping address, hping address, hread, hread, hwrite, hwrite,
    fun place sel f desc value bytes hf hb => ⟨?_, ?_, ?_⟩⟩
  · rw [exec, execTransact, transactOp_closed address code (hclosed _) hp]
    rfl
  · have hopen : checkOpen s = stuck .transportClosed := by rw [checkOpen, hc]; rfl
    rw [exec, execSendBlind, checkParams_ok.2 hp, ok_bind, hopen]
    rfl
  · rw [exec, execDevPing, facadeAt_ok hf hb, ok_bind, pingOp_closed f.fid (hclosed _)]
    rfl
  · rintro ⟨-, -, m, hm, hwf, hreg⟩ hacc
    have hget := getOp_of_selected (s := latchOp .get s) (facadeAt_ok hf hb) (selectOn_chosen hm hwf.1 hreg)
    rw [exec, execGet, hget, if_pos hacc, checkMap_of_wellFormed hwf, ok_bind, readOp_closed _ _ _ (hclosed _)]
    rfl
  · rintro ⟨-, -, m, hm, hwf, hreg⟩ hacc henc hfit hsize
    obtain ⟨t, ht⟩ := encodeOp_of_encodesTo (s := latchOp .set s) henc
    have hset := setOp_of_selected (v := value) (s := latchOp .set s) (facadeAt_ok hf hb) (selectOn_chosen hm hwf.1 hreg)
    have hbus : t.bus.isOpen = false := by rw [encodeOp_bus ht]; exact hc
    have hpad : (bytes ++ List.replicate (desc.size - bytes.length) 0).length ≤ 65530 := by
      rw [List.length_append, List.length_replicate]
      omega
    rw [exec, execSet, hset, if_pos hacc, ht, ok_bind, checkMap_of_wellFormed hwf, ok_bind, pad, if_pos hfit, ok_bind,
      writeOp_closed _ _ hbus hpad]
    rfl

end Sys2Proof.Claims

/-! PROOF. Where ENCODE is refused (43_register_data_model R181, R182, R187, R191; 30_encoding R96): each check on what it
does not let pass. -/

namespace Sys2Proof.Claims

open Sys2Proof.Machine

theorem exec_encode_refused {v : Value} {spec : Option DisplaySpec} {s : State} {r : Refusal}
    (h : encodeOp v spec (latchOp .encode s) = refuse r) : exec (.encode v spec) s = .refused r := by
  rw [exec, execEncode, h]
  rfl

theorem passBytes_of_not_fits {v : Value} {spec : Option DisplaySpec} (hs : PassesThrough spec)
    (hv : v.fits spec = false) : passBytes v = refuse .operandOutOfDomain := by
  cases v with
  | bytes b =>
    cases spec with
    | none => cases hv
    | some d => simp [Value.fits, hs d rfl] at hv
  | _ => rfl

theorem es0Check_zeroScale {d : DisplaySpec} (h : d.scale = some 0) : es0Check d = refuse .zeroScale := by
  simp [es0Check, DisplaySpec.scaleOk, h]

theorem es0Check_minAboveMax {d : DisplaySpec} {lo hi : Rat} (hs : d.scale ≠ some 0) (hlo : d.min = some lo)
    (hhi : d.max = some hi) (h : hi < lo) : es0Check d = refuse .minAboveMax := by
  have hscale : d.scaleOk = true := by simpa [DisplaySpec.scaleOk] using hs
  rw [es0Check, if_pos hscale, boundsOk_false.2 ⟨lo, hi, hlo, hhi, h⟩]
  rfl

/-- R96: the kinds ES1 parses under a tag are those the tag admits. -/
theorem es1Parse_of_not_fits {d : DisplaySpec} {v : Value} (h : v.fits (some d) = false) :
    es1Parse d.tag v = refuse .operandOutOfDomain := by
  unfold es1Parse
  split
  case h_7 => rfl
  all_goals simp_all [Value.fits]

theorem es1Parse_fraction {q : Rat} (h : (⌊q⌋ : Rat) ≠ q) :
    es1Parse .int (.rat q) = refuse .intOperandNotIntegral := by
  refine if_neg fun hden => h ?_
  rw [← Rat.coe_int_num_of_den_eq_one hden, Int.floor_intCast]

/-- The characters of a range that a list contains do not hold one outside the list. -/
theorem not_between_of_not_mem {lo hi c : Char} {l : Text}
    (hall : ∀ n ≤ hi.toNat, lo.toNat ≤ n → Char.ofNat n ∈ l) (hc : c ∉ l) : ¬ (lo ≤ c ∧ c ≤ hi) := by
  rintro ⟨hlo, hhi⟩
  apply hc
  rw [← Char.ofNat_toNat c]
  exact hall c.toNat hhi hlo

/-- ES1's three ranges of digits are the claims' lists. -/
theorem hexValue_of_other {c : Char} (hl : c ∉ lowerDigits) (hu : c ∉ upperDigits) : hexValue c = none := by
  rw [hexValue, if_neg (not_between_of_not_mem (by decide) hl), if_neg (not_between_of_not_mem (by decide) hl),
    if_neg (not_between_of_not_mem (by decide) hu)]

theorem hexValueFrom_of_other {t : Text} {c : Char} (hc : c ∈ t) (hl : c ∉ lowerDigits) (hu : c ∉ upperDigits) :
    ∀ n, hexValueFrom n t = none := by
  induction hc with
  | head cs =>
    intro n
    rw [hexValueFrom, hexValue_of_other hl hu]
  | tail b _ ih =>
    intro n
    rw [hexValueFrom]
    split
    · exact ih _
    · rfl

/-- The parse of ES1 takes numerals only (R182). -/
theorem parseHex_of_not_numeral {t : Text} (h : ¬ IsNumeral t) : parseHex t = none := by
  by_cases ht : t = []
  · exact if_pos ht
  · obtain ⟨c, hc, hl, hu⟩ : ∃ c ∈ t, c ∉ lowerDigits ∧ c ∉ upperDigits := by simpa [IsNumeral, ht] using h
    rw [parseHex, if_neg ht, hexValueFrom_of_other hc hl hu]

/-- R187: at -1 and below the truncated number is negative. -/
theorem es6Emit_of_le {v : Rat} (h : v ≤ -1) : es6Emit v = refuse .negativeRaw := by
  have hneg : ¬ 0 ≤ v := not_le.2 (h.trans_lt (by norm_num))
  have hceil : ⌈v⌉ ≤ -1 := Int.ceil_le.2 (by simpa using h)
  rw [es6Emit, trunc_eq, if_neg hneg, if_pos (by omega)]

/-- Settles O35: ENCODE's checks in their order, each refusal under what the checks before it let pass. -/
theorem encodeRefusals : Obligations.EncodeRefusals := by
  refine ⟨fun v spec s hs hv => exec_encode_refused ?_, fun v d s hnum => ?_⟩
  · have hpass : PassesThrough spec := by
      obtain rfl | ⟨d, rfl, hd⟩ := hs
      · exact nofun
      · rintro _ ⟨⟩
        exact hd
    rw [encodeOp_of_passesThrough hpass, passBytes_of_not_fits hpass hv, refuse_bind]
  · have henc := encodeOp_of_numeric hnum v (latchOp .encode s)
    refine ⟨fun hs => exec_encode_refused ?_, fun hs lo hi hlo hhi hlt => exec_encode_refused ?_, fun hs hb => ?_⟩
    · rw [henc, es0Check_zeroScale hs, refuse_bind]
    · rw [henc, es0Check_minAboveMax hs hlo hhi hlt, refuse_bind]
    rw [es0Check_ok hs hb, ok_bind] at henc
    refine ⟨fun hv => exec_encode_refused ?_, fun q htag hv hq => exec_encode_refused ?_,
      fun t htag hv ht => exec_encode_refused ?_, fun q hq hraw => exec_encode_refused ?_⟩
    · rw [henc, es1Parse_of_not_fits hv, refuse_bind]
    · rw [henc, htag, hv, es1Parse_fraction hq, refuse_bind]
    · rw [henc, htag, hv, es1Parse, parseHex_of_not_numeral ht]
      rfl
    · rw [henc, es1Parse_of_denotes hq, ok_bind, es6Emit_of_le (v := rawNumber (latchOp .encode s).num d q) hraw,
        refuse_bind]

end Sys2Proof.Claims

/-! PROOF. The CRC engine's arithmetic (40_crc R105 to R112): one round of the divider is linear over exclusive or, and
with the table of log 9 the step for one byte is eight rounds. -/

namespace Sys2Proof.Claims

open Sys2Proof.Machine

/-! ### Rounds of the divider -/

/-- What the divider adds to the shifted accumulator when the bit `out` leaves it. -/
def feedback (out : Bool) : Word := if out then 0x8005 else 0

theorem feedback_xor (p q : Bool) : feedback (p ^^ q) = feedback p ^^^ feedback q := by
  cases p <;> cases q <;> rfl

theorem genRound_eq_feedback (c : Word) : genRound c = (c <<< 1) ^^^ feedback (c.getLsbD 15) := by
  rw [genRound, feedback]
  split
  · rfl
  · exact BitVec.xor_zero.symm

theorem serialBit_eq_feedback (acc : Word) (bit : Bool) :
    serialBit acc bit = (acc <<< 1) ^^^ feedback (acc.getLsbD 15 != bit) := by
  rw [serialBit, feedback]
  split
  · rfl
  · exact BitVec.xor_zero.symm

/-- One round is linear: the bit shifted out of an exclusive or is the exclusive or of the bits shifted out. -/
theorem genRound_xor (c d : Word) : genRound (c ^^^ d) = genRound c ^^^ genRound d := by
  rw [genRound_eq_feedback, genRound_eq_feedback c, genRound_eq_feedback d, BitVec.shiftLeft_xor_distrib,
    BitVec.getLsbD_xor, feedback_xor]
  ac_rfl

theorem rounds_xor (n : Nat) (c d : Word) :
    Nat.repeat genRound n (c ^^^ d) = Nat.repeat genRound n c ^^^ Nat.repeat genRound n d := by
  induction n with
  | zero => rfl
  | succ n ih => rw [Nat.repeat, ih, genRound_xor, Nat.repeat, Nat.repeat]

/-- A bit enters the divider apart from what the accumulator holds. -/
theorem serialBit_eq_xor (acc : Word) (bit : Bool) : serialBit acc bit = genRound acc ^^^ serialBit 0 bit := by
  have hzero : serialBit 0 bit = feedback bit := by
    cases bit <;> rfl
  rw [serialBit_eq_feedback, feedback_xor, ← BitVec.xor_assoc, ← genRound_eq_feedback, hzero]

theorem foldl_serialBit_eq_xor (acc : Word) (bits : List Bool) :
    bits.foldl serialBit acc = Nat.repeat genRound bits.length acc ^^^ bits.foldl serialBit 0 := by
  induction bits using List.reverseRecOn with
  | nil => exact (BitVec.xor_zero).symm
  | append_singleton bits bit ih =>
    rw [List.foldl_concat, List.foldl_concat, List.length_append, List.length_singleton, Nat.repeat,
      serialBit_eq_xor, ih, genRound_xor, serialBit_eq_xor (bits.foldl serialBit 0), BitVec.xor_assoc]

/-! ### One byte -/

/-- Settles O6: each of the 256 entries is compared with the generation rule's. -/
theorem tableIsGenerated : Obligations.TableIsGenerated :=
  ⟨by decide +kernel, by decide +kernel⟩

theorem crcEntry_eq_genEntry (i : Byte) : crcEntry i = genEntry i := tableIsGenerated.2 i

theorem genEntry_xor (i j : Byte) : genEntry (i ^^^ j) = genEntry i ^^^ genEntry j := by
  rw [genEntry, BitVec.setWidth_xor, BitVec.shiftLeft_xor_distrib, rounds_xor, genEntry, genEntry]

/-- Eight rounds over a low byte only shift it: it does not reach the top bit. -/
theorem rounds_lowByte (b : Byte) : Nat.repeat genRound 8 (b.setWidth 16) = b.setWidth 16 <<< 8 := by
  revert b
  decide +kernel

theorem word_eq_highByte_xor_lowByte (w : Word) :
    w = ((w.extractLsb' 8 8).setWidth 16 <<< 8) ^^^ (w.extractLsb' 0 8).setWidth 16 := by
  ext i hi
  by_cases h : i < 8
  · simp [h, BitVec.getLsbD_eq_getElem hi]
  · simp [h, (by omega : i - 8 < 8), (by omega : 8 + (i - 8) = i), hi]

theorem lowByte_shiftLeft (w : Word) : (w.extractLsb' 0 8).setWidth 16 <<< 8 = w <<< 8 := by
  ext i hi
  by_cases h : i < 8
  · simp [h]
  · simp [h, (by omega : i - 8 < 8), BitVec.getLsbD_eq_getElem (by omega : i - 8 < 16)]

/-- Eight rounds shift the low byte up and exchange the high byte for its entry. -/
theorem rounds_eight (acc : Word) : Nat.repeat genRound 8 acc = (acc <<< 8) ^^^ genEntry (acc.extractLsb' 8 8) := by
  conv_lhs => rw [word_eq_highByte_xor_lowByte acc]
  rw [rounds_xor, rounds_lowByte, lowByte_shiftLeft, genEntry, BitVec.xor_comm]

/-- The engine's step is eight rounds over ACC and the byte's entry. -/
theorem crcStep_eq_rounds (acc : Word) (b : Byte) : crcStep acc b = Nat.repeat genRound 8 acc ^^^ genEntry b := by
  rw [crcStep, crcIndex, crcEntry_eq_genEntry, genEntry_xor, rounds_eight, BitVec.xor_assoc]

theorem crcStep_xor (acc acc' : Word) (b b' : Byte) :
    crcStep (acc ^^^ acc') (b ^^^ b') = crcStep acc b ^^^ crcStep acc' b' := by
  rw [crcStep_eq_rounds, crcStep_eq_rounds, crcStep_eq_rounds, rounds_xor, genEntry_xor]
  ac_rfl

/-- From 0 the divider turns a byte's bits into what the generation rule gives. -/
theorem serialByte_zero (b : Byte) : (byteBits b).foldl serialBit 0 = genEntry b := by
  revert b
  decide +kernel

theorem serialByte_eq_crcStep (acc : Word) (b : Byte) : (byteBits b).foldl serialBit acc = crcStep acc b := by
  rw [foldl_serialBit_eq_xor, serialByte_zero, crcStep_eq_rounds]
  rfl

/-! ### Byte sequences -/

/-- Settles O7: the divider takes a byte's eight bits as the engine takes the byte. -/
theorem crcIsBitSerialDivision : Obligations.CrcIsBitSerialDivision := by
  intro bytes
  rw [crc16, crcSerial, List.foldl_flatMap]
  simp only [serialByte_eq_crcStep]

theorem foldl_crcStep_zipWith_xor {a b : List Byte} (h : a.length = b.length) (x y : Word) :
    (List.zipWith (· ^^^ ·) a b).foldl crcStep (x ^^^ y) = a.foldl crcStep x ^^^ b.foldl crcStep y := by
  induction a generalizing b x y with
  | nil =>
    rw [List.eq_nil_of_length_eq_zero h.symm]
    rfl
  | cons c a ih =>
    cases b with
    | nil => cases h
    | cons d b =>
      rw [List.zipWith_cons_cons, List.foldl_cons, crcStep_xor, ih (Nat.succ.inj h), List.foldl_cons, List.foldl_cons]

/-- Settles O8: the step from ACC = 0 with byte 0 stays at 0, and the step is linear. -/
theorem crcIsLinear : Obligations.CrcIsLinear := by
  refine ⟨fun bytes => ?_, fun b => ?_, fun a b h => ?_⟩
  · have hzero : crcStep 0 0 = 0 := rfl
    rw [crc16, List.foldl_cons, hzero, crc16]
  · have hindex : crcIndex 0 b = b := BitVec.zero_xor
    have hstep : crcStep 0 b = crcEntry (crcIndex 0 b) := BitVec.zero_xor
    rw [crc16, List.foldl_cons, List.foldl_nil, hstep, hindex, crcEntry]
  · exact foldl_crcStep_zipWith_xor h 0 0

/-- Settles O5: the shift drops ACC's high byte, and the engine folds the step over the sequence. -/
theorem crcPerByteStep : Obligations.CrcPerByteStep := by
  refine ⟨fun acc b => ?_, rfl, fun bytes b => List.foldl_concat ..⟩
  rw [lowByte_shiftLeft, crcStep, crcEntry, crcIndex]

/-! ### The instruction and the checker -/

/-- Settles O4: exec does not look at the seed. -/
theorem seedIsIgnored : Obligations.SeedIsIgnored := by
  have hcrc : crc16 [1, 2, 3, 4] = 0x9E33 := by decide +kernel
  exact ⟨fun _ _ _ => rfl, fun _ => ⟨_, rfl, congrArg OpResult.word hcrc⟩⟩

/-- Settles O9: the checker's comparison of fields is one of the numbers in them. -/
theorem checkerRecomputes : Obligations.CheckerRecomputes := by
  refine ⟨fun r _ => ?_, by decide +kernel, by decide +kernel⟩
  rw [crcOk, beq_iff_eq]
  exact not_iff_not.mp (checksum_ne_iff r)

end Sys2Proof.Claims

/-! PROOF. The bound on parameter bytes (41_packet_codec R119): it is checked before anything else, so an operation over it
is refused whatever the state. -/

namespace Sys2Proof.Claims

open Sys2Proof.Machine

theorem transactOp_too_long {a i : Byte} {p : List Byte} {s : State} (hp : Config.maxParams < p.length) :
    transactOp a i p s = refuse .paramsTooLong := by
  rw [transactOp_eq, if_pos hp]
  rfl

/-- Settles O11: each operation's first check refuses; WRITE's parameters are its data and two bytes of register address. -/
theorem overlongParametersAreRefused : Obligations.OverlongParametersAreRefused := by
  refine ⟨fun address code parameters s hp => ⟨?_, ?_, ?_⟩, fun address len reg data crc s hd => ?_⟩
  · rw [exec, execBuildPacket, checkParams_long hp]
    rfl
  · rw [exec, execTransact, transactOp_too_long hp]
    rfl
  · obtain ⟨hrefused, -⟩ := sendBlindOnlyWrites
    exact hrefused address code parameters s hp
  · have hwrite : exec (.write address reg data) s = .refused .paramsTooLong := by
      rw [exec, execWrite, writeOp_too_long hd]
      rfl
    have hsame : exec (.pktWrite address len reg data crc) s = exec (.write address reg data) s := rfl
    exact ⟨hwrite, hsame.trans hwrite⟩

end Sys2Proof.Claims

/-! PROOF. The line (42_bus_transport R130 to R152): what a read takes, what TRANSACT, PING, READ and WRITE make of a line
that answers, and what a wrong echo leaves. -/

namespace Sys2Proof.Claims

open Sys2Proof.Machine

/-- Settles O13: a read splits what is pending where the line's limit and `n` say. -/
theorem readsReturnPrefixes : Obligations.ReadsReturnPrefixes := by
  intro n s
  refine ⟨rxRead_split n s, rxRead_length n s, fun hlimit => ?_,
    List.length_eq_zero_iff.1 (Nat.le_zero.1 (rxRead_length 0 s))⟩
  have hall : readLimit n s = n := by rw [readLimit_eq, lineNow, hlimit, atMost]
  rw [rxRead_got, hall, List.length_take]
  rfl

/-! ### The reply's own bytes -/

/-- A packet's first five bytes are the marker and the address, so a reply's are its request's (R135). -/
theorem buildPacketBytes_take_five (a c : Byte) (q : List Byte) :
    (buildPacketBytes a c q).take 5 = [0xFF, 0xFF, 0xFD, 0x00, a] := by
  rw [buildPacketBytes_eq]
  rfl

theorem statusReply_length (a e : Byte) (data : List Byte) : (statusReply a e data).length = data.length + 11 := by
  rw [statusReply, buildPacketBytes_length, List.length_cons]

theorem statusReply_header_length (a e : Byte) (data : List Byte) : ((statusReply a e data).take 7).length = 7 := by
  rw [List.length_take, statusReply_length]
  omega

/-- A reply's header announces what stands behind it (R79, R136). -/
theorem statusReply_lenIn (a e : Byte) {data : List Byte} (hd : data.length ≤ 65531) :
    lenIn ((statusReply a e data).take 7) = data.length + 4 := by
  have hfield := buildPacketBytes_lenField a 0x55 (p := e :: data) (by rw [List.length_cons]; omega)
  rw [buildPacketBytes_eq] at hfield
  rw [statusReply, buildPacketBytes_eq]
  exact hfield

/-- A reply's code and error byte stand behind the header. -/
theorem statusReply_code (a e : Byte) (data : List Byte) :
    (statusReply a e data).getD 7 0 = 0x55 ∧ (statusReply a e data).getD 8 0 = e := by
  rw [statusReply, buildPacketBytes_eq]
  exact ⟨rfl, rfl⟩

/-- Between code and checksum stand the error byte and the data (R121). -/
theorem statusReply_payload (a e : Byte) (data : List Byte) :
    ((statusReply a e data).take ((statusReply a e data).length - 2)).drop 8 = e :: data := by
  rw [statusReply, ← dropLast2, dropLast2_build]
  rfl

/-- A reply passes step 7's check, in the words of `verdict` (R137). -/
theorem statusReply_checksum (a e : Byte) (data : List Byte) {r : List Byte} (hr : r = statusReply a e data) :
    crcLoop (r.take (r.length - 2)) 0 = (r.getD (r.length - 2) 0).toNat + 256 * (r.getD (r.length - 1) 0).toNat := by
  obtain ⟨hchecker, -⟩ := checkerRecomputes
  subst hr
  exact (hchecker _ (by rw [statusReply_length]; omega)).1 (crcOk_build a 0x55 (e :: data))

/-! ### The exchange on an answered line -/

/-- What a transaction that sends `p` hears when the line answers with `reply`. -/
structure Answered (p reply tail late : List Byte) (x : Exchange) : Prop where
  echo      : x.echo = p
  hdr       : x.hdr = reply.take 7
  body      : x.body = reply.drop 7
  afterBody : x.afterBody = tail ++ late

/-- The echo's read takes exactly the echo, the header's seven bytes of the reply, the body's the rest of it. -/
theorem answered_of_lineAnswers {a e : Byte} {data tail late : List Byte} {line : List LineStep}
    (hd : data.length ≤ 65531) (h : LineAnswers (statusReply a e data) tail late line) (p : List Byte) :
    Answered p (statusReply a e data) tail late (exchange p line) := by
  obtain ⟨flush, write, echo, header, body, rest, rfl, hwrite, hheard, hreply, hlate, hecho, hheader, hbody⟩ := h
  have hlen := statusReply_length a e data
  have hannounced := statusReply_lenIn a e hd
  have htake : (statusReply a e data ++ tail).take 7 = (statusReply a e data).take 7 :=
    List.take_append_of_le_length (by omega)
  have hdrop : (statusReply a e data ++ tail).drop 7 = (statusReply a e data).drop 7 ++ tail :=
    List.drop_append_of_le_length (by omega)
  have hrest : ((statusReply a e data).drop 7).length = data.length + 4 := by
    rw [List.length_drop]
    omega
  constructor <;>
    simp [exchange, hwrite, hheard, hecho, hheader, hbody, hlate, atMost, hreply, htake, hdrop, hannounced, ← hrest]

/-- Header and body together are the reply. -/
theorem Answered.resp {p reply tail late : List Byte} {x : Exchange} (h : Answered p reply tail late x) :
    x.resp = reply := by
  rw [Exchange.resp, h.hdr, h.body, List.take_append_drop]

/-- No check fails on a reply without error bits to a request of the same address. -/
theorem Answered.verdict_none {p tail late : List Byte} {a e : Byte} {data : List Byte} {x : Exchange}
    (h : Answered p (statusReply a e data) tail late x) (hd : data.length ≤ 65531) (he : e &&& 0x7F = 0)
    (hp : p.take 5 = [0xFF, 0xFF, 0xFD, 0x00, a]) : verdict p x = none := by
  have hlen := statusReply_lenIn a e hd
  have hbits : ¬ e.toNat % 128 ≠ 0 := by
    rw [← errorBitsSet_iff, errorBitsSet, he]
    decide
  have hmarker : x.hdr.take 5 = p.take 5 := by
    rw [hp, h.hdr, List.take_take]
    exact buildPacketBytes_take_five a 0x55 _
  have hbody : x.body.length = data.length + 4 := by
    rw [h.body, List.length_drop, statusReply_length]
    omega
  obtain ⟨hcode, herr⟩ := statusReply_code a e data
  rw [verdict, h.resp, if_neg (not_not.2 h.echo), if_neg (by rw [h.hdr, statusReply_header_length]; omega),
    if_neg (not_not.2 hmarker), if_neg (by rw [hbody, h.hdr, hlen]; omega),
    if_neg (not_not.2 (statusReply_checksum a e data rfl)), if_neg, if_neg (by rwa [herr])]
  rintro (hshort | hother)
  · rw [h.hdr, hlen] at hshort
    omega
  · exact hother hcode

/-- What a transaction without a failed check leaves, on an answered line. -/
theorem Answered.succeeded {p tail late : List Byte} {a e : Byte} {data : List Byte} {s t : State}
    (h : Answered p (statusReply a e data) tail late (exchange p s.line)) (hd : data.length ≤ 65531)
    (hv : verdict p (exchange p s.line) = none) (ht : AfterTransaction p s t) :
    Succeeded p (statusReply a e data) e tail late s t := by
  obtain ⟨htxbuf, hphase, hecho, hhdr, hlen, hbody, hacc, herr, hbyte, hdiag, hrxq, hline, hevents⟩ := ht
  have hannounced : lenIn ((statusReply a e data).take 7) = (statusReply a e data).length - 7 := by
    rw [statusReply_lenIn a e hd, statusReply_length]
    omega
  rw [hv] at hhdr hlen hbody hacc herr hbyte hdiag hrxq hline hevents
  refine ⟨htxbuf, hphase, herr, ?_, hrxq.trans h.afterBody, hecho.trans h.echo, hhdr.trans h.hdr, hbody.trans h.body,
    ?_, ?_, ?_, ?_, hline⟩
  · obtain ⟨-, hreplied⟩ := statusReply_code a e data
    rw [hbyte, if_pos (.inl rfl), h.resp, hreplied]
  · rw [hlen, h.hdr]
    exact hannounced
  · rw [hacc, h.resp]
    rfl
  · rw [hdiag, Option.elim_none, List.append_nil, List.append_nil]
  · rw [hevents, allEvents, h.echo, h.hdr, h.body, hannounced]
    rfl

/-- The run of TRANSACT on an answered line: its answer, its verdict, and what it leaves. -/
theorem finalState_answered {p tail late : List Byte} {a e : Byte} {data : List Byte} {s : State}
    (hp : p.take 5 = [0xFF, 0xFF, 0xFD, 0x00, a]) (hd : data.length ≤ 65531) (he : e &&& 0x7F = 0)
    (hline : LineAnswers (statusReply a e data) tail late s.line) :
    verdict p (exchange p s.line) = none ∧ answerOf (exchange p s.line) none = .ok (e :: data) ∧
      Succeeded p (statusReply a e data) e tail late s (finalState p (exchange p s.line) s none) ∧
      OutsideKept s (finalState p (exchange p s.line) s none) := by
  have hanswered := answered_of_lineAnswers hd hline p
  have hv := hanswered.verdict_none hd he hp
  obtain ⟨houtside, hafter⟩ := finalState_spec hv
  refine ⟨hv, ?_, hanswered.succeeded hd hv hafter, houtside⟩
  rw [answerOf, Exchange.payload, hanswered.resp, statusReply_payload]

/-! ### TRANSACT, PING, READ and WRITE -/

theorem transactOp_finalState {a i : Byte} {parameters : List Byte} {s : State} {p : List Byte} {v : Option TxError}
    (ho : s.bus.isOpen = true) (hfit : parameters.length ≤ 65532) (hp : p = buildPacketBytes a i parameters)
    (hv : verdict p (exchange p s.line) = v) :
    transactOp a i parameters s = .ok (answerOf (exchange p s.line) v,
      finalState p (exchange p s.line) (latchRequest a i parameters s) v) := by
  rw [transactOp_ok hfit ho, runTransaction_eq a i _ _ p _ hp rfl, ← hv]
  rfl

/-- Settles O15: the exchange is the answered one, on which no check fails. -/
theorem transactReturnsTheReply : Obligations.TransactReturnsTheReply := by
  intro address code parameters errByte data tail late s ho hfit hd he hline
  obtain ⟨hv, hanswer, hsucceeded, houtside⟩ :=
    finalState_answered (buildPacketBytes_take_five address code parameters) hd he hline
  rw [exec, execTransact, transactOp_finalState (s := latchOp .transact s) ho hfit rfl hv]
  exact ⟨_, rfl, congrArg OpResult.transacted hanswer, hsucceeded, houtside, ⟨rfl, rfl, rfl, rfl⟩, rfl, rfl, rfl⟩

/-- The model number of a reply is its first two data bytes, low byte first (R148). -/
theorem model_of_reply (e lo hi : Byte) (more : List Byte) :
    (TxResult.ok (e :: lo :: hi :: more)).model? = some (BitVec.ofNat 16 (lo.toNat + 256 * hi.toNat)) := by
  rw [← word16_toNat, BitVec.ofNat_toNat, BitVec.setWidth_eq]
  rfl

/-- Settles O16: PING and its packet are TRANSACT of code 1 without parameters. -/
theorem pingReturnsModelNumber : Obligations.PingReturnsModelNumber := by
  intro address crc errByte data tail late s i hi ho hd he hline
  have hrun : exec i s = execPing address s := by obtain rfl | rfl := hi <;> rfl
  obtain ⟨hv, hanswer, hsucceeded, houtside⟩ :=
    finalState_answered (buildPacketBytes_take_five address Config.codePing []) hd he hline
  rw [hrun, execPing, pingOp_eq (s := latchOp .ping s) ho rfl hv]
  have hmodel := congrArg TxResult.model? hanswer
  refine ⟨_, rfl, congrArg OpResult.model (hmodel.trans ?_), hsucceeded, houtside, ⟨rfl, rfl, rfl, rfl⟩, rfl, rfl, rfl⟩
  match data with
  | [] | [_] => rfl
  | lo :: hi :: more => exact model_of_reply errByte lo hi more

/-- Settles O17: READ and its packet are TRANSACT of code 2, and the payload is handed on. -/
theorem readReturnsPayload : Obligations.ReadReturnsPayload := by
  intro address reg num crc errByte data tail late s i hi ho hd he hline
  have hrun : exec i s = execRead address reg num s := by obtain rfl | rfl := hi <;> rfl
  obtain ⟨hv, hanswer, hsucceeded, houtside⟩ :=
    finalState_answered (buildPacketBytes_take_five address Config.codeRead (readParams reg num)) hd he hline
  rw [hrun, execRead, readOp_eq (s := latchOp .read s) ho rfl hv]
  have hpayload := congrArg TxResult.payload? hanswer
  exact ⟨_, rfl, congrArg OpResult.payload hpayload, hsucceeded, houtside, ⟨rfl, rfl, rfl, rfl⟩, rfl, rfl, rfl⟩

/-- Settles O18: WRITE and its packet are TRANSACT of code 3, and the payload is handed on. -/
theorem writeSendsData : Obligations.WriteSendsData := by
  intro address len reg bytes crc errByte data tail late s i hi ho hb hd he hline
  have hrun : exec i s = execWrite address reg bytes s := by obtain rfl | rfl := hi <;> rfl
  obtain ⟨hv, hanswer, hsucceeded, houtside⟩ :=
    finalState_answered (buildPacketBytes_take_five address Config.codeWrite (writeParams reg bytes)) hd he hline
  rw [hrun, execWrite, writeOp_eq (s := latchOp .write s) ho hb rfl hv]
  have hpayload := congrArg TxResult.payload? hanswer
  exact ⟨_, rfl, congrArg OpResult.payload hpayload, hsucceeded, houtside, ⟨rfl, rfl, rfl, rfl⟩, rfl, rfl, rfl⟩

/-- Settles O21: the first check fails, so that the echo's read is the last transport event. -/
theorem echoMismatchConsumesNothingMore : Obligations.EchoMismatchConsumesNothingMore := by
  intro address code parameters s ho hfit p x hecho
  have hv : verdict p x = some .transmissionMismatch := if_pos hecho
  have hsplit : x.echo ++ x.afterEcho =
      (s.line.getD 1 {}).arrives ++ (s.line.getD 1 {}).heard.getD p ++ (s.line.getD 2 {}).arrives :=
    List.take_append_drop _ _
  rw [exec, execTransact, transactOp_finalState (s := latchOp .transact s) ho hfit rfl hv]
  exact ⟨_, rfl, rfl, rfl, hsplit, rfl, rfl, rfl, rfl, rfl, rfl, rfl⟩

end Sys2Proof.Claims

/-! PROOF. A transaction starts from an empty queue (42_bus_transport R131; 70_reset_and_hazards R246). -/

namespace Sys2Proof.Claims

open Sys2Proof.Machine

/-- `s` with other bytes in RXQ. -/
def withStale (stale : List Byte) (s : State) : State := { s with rxq := stale }

/-- ENCODE carries RXQ along. -/
theorem encodeOp_stale (v : Value) (spec : Option DisplaySpec) (stale : List Byte) (s : State) :
    encodeOp v spec (withStale stale s) = encodeOp v spec s >>= fun r => .ok (r.1, withStale stale r.2) := by
  obtain h | ⟨d, rfl, h⟩ := passesThrough_or_numeric spec
  · rw [encodeOp_of_passesThrough h, encodeOp_of_passesThrough h, bind_assoc]
    rfl
  · rw [encodeOp_of_numeric h, encodeOp_of_numeric h]
    simp only [bind_assoc]
    rfl

theorem setOp_stale (place : Nat) (sel : RegSel) (v : Value) (stale : List Byte) (s : State) :
    setOp place sel v (withStale stale s) = setOp place sel v s := by
  rw [setOp_eq, setOp_eq]
  refine bind_congr fun f => bind_congr fun c => if_congr Iff.rfl ?_ rfl
  rw [encodeOp_stale, bind_assoc]
  rfl

/-- Settles O24: step 1 empties RXQ and nothing before it looks at it, so that both runs are one computation; only SET
runs an ENCODE before it, which hands RXQ on. -/
theorem staleBytesDoNotMatter : Obligations.StaleBytesDoNotMatter := by
  intro i s stale hi
  cases i with
  | pktPing id crc => rfl
  | pktRead id reg num crc => rfl
  | pktWrite id len reg data crc => rfl
  | transact address code parameters => rfl
  | ping address => rfl
  | read address reg num => rfl
  | write address reg data => rfl
  | get place sel => rfl
  | set place sel v =>
    have hset := setOp_stale place sel v stale (latchOp .set s)
    exact congrArg (fun x => Attempt.outcome (x >>= fun r => .ok (deliver (.flag r.1) r.2))) hset
  | devPing place => rfl
  | pktStatus | crc16 | buildPacket | sendBlind | decode | encode => cases hi

end Sys2Proof.Claims

/-! PROOF. GET, SET and DEV_PING on a transaction that fails (44_device_facade R199, R201, R203; 60_exceptions R228, R229). -/

namespace Sys2Proof.Claims

open Sys2Proof.Machine

/-! ### GET and SET of a selected register -/

/-- A chosen descriptor stands in the map. -/
theorem Chooses.mem {sep : Text} {map : List RegDescriptor} {sel : RegSel} {reg : RegDescriptor}
    (h : Chooses sep map sel reg) : reg ∈ map := by
  cases h with
  | index hk => exact List.mem_of_getElem? hk
  | name hmem _ => exact hmem

/-- Address and size of a selected register are 16-bit numbers (R42 c). -/
theorem Selects.toNat {place : Nat} {sel : RegSel} {s : State} {f : Facade} {reg : RegDescriptor}
    (h : Selects place sel s f reg) :
    (BitVec.ofNat 16 reg.address).toNat = reg.address ∧ (BitVec.ofNat 16 reg.size).toNat = reg.size := by
  obtain ⟨-, -, m, -, ⟨-, hwf⟩, hreg⟩ := h
  have hreg := hwf reg hreg.mem
  simp only [IllFormed, not_or, not_lt] at hreg
  obtain ⟨haddress, -, hsize, -⟩ := hreg
  exact ⟨Nat.mod_eq_of_lt (by omega), Nat.mod_eq_of_lt (by omega)⟩

/-- On a register that can be read, GET is READ and what it makes of the answer. -/
theorem getOp_of_selects {place : Nat} {sel : RegSel} {s : State} {f : Facade} {reg : RegDescriptor}
    (h : Selects place sel s f reg) (hacc : reg.access.canRead = true) :
    getOp place sel s =
      readOp f.fid (BitVec.ofNat 16 reg.address) (BitVec.ofNat 16 reg.size) s >>= getAnswer place f reg := by
  obtain ⟨hf, hb, m, hm, hwf, hreg⟩ := h
  rw [getOp_of_selected (facadeAt_ok hf hb) (selectOn_chosen hm hwf.1 hreg), if_pos hacc, checkMap_of_wellFormed hwf,
    ok_bind]

/-- On a register that can be written, with a value that encodes and fits, SET is WRITE of the padded bytes and what it
makes of the answer. -/
theorem setOp_of_selects {place : Nat} {sel : RegSel} {s t : State} {f : Facade} {reg : RegDescriptor} {v : Value}
    {bytes : List Byte} (h : Selects place sel s f reg) (hacc : reg.access.canWrite = true)
    (henc : encodeOp v reg.display s = .ok (bytes, t)) (hfit : bytes.length ≤ reg.size) :
    setOp place sel v s =
      writeOp f.fid (BitVec.ofNat 16 reg.address) (bytes ++ List.replicate (reg.size - bytes.length) 0) t >>=
        fun r => .ok (setAnswer place f r) := by
  obtain ⟨hf, hb, m, hm, hwf, hreg⟩ := h
  rw [setOp_of_selected (facadeAt_ok hf hb) (selectOn_chosen hm hwf.1 hreg), if_pos hacc, henc, ok_bind,
    checkMap_of_wellFormed hwf, ok_bind, pad, if_pos hfit, ok_bind]

/-- What ENCODE writes: SPEC and VAL. -/
def withEncoding (spec : Option DisplaySpec) (val : Rat) (s : State) : State := { s with spec := spec, val := val }

/-- ENCODE's VAL depends on its operands, NUM and the VAL before alone. -/
theorem encodeOp_writes {num : NumDomain} {spec : Option DisplaySpec} {v : Value} {b : List Byte}
    (h : EncodesTo num spec v b) : ∃ val : Rat → Rat, ∀ s : State, s.num = num →
      encodeOp v spec s = .ok (b, withEncoding spec (val s.val) s) := by
  cases h with
  | absent => exact ⟨id, fun _ _ => rfl⟩
  | pass d _ hd =>
    refine ⟨id, fun s _ => ?_⟩
    rw [encodeOp_of_passesThrough fun _ h => Option.some.inj h ▸ hd]
    rfl
  | number d _ q hs hb hq hr =>
    refine ⟨fun _ => rawNumber num d q, fun s hnum => ?_⟩
    subst hnum
    rw [encodeOp_of_numeric hq.numeric, es0Check_ok hs hb, es1Parse_of_denotes hq, ok_bind, ok_bind, es6Emit_of_gt hr]
    rfl

/-! ### The failed transaction -/

/-- A note stands behind the transaction's error in DIAG (R228). -/
theorem AfterTransaction.note {p : List Byte} {s t : State} (h : AfterTransaction p s t) (d : Diag) :
    AfterTransaction p s (note d t) [d] := by
  obtain ⟨htxbuf, hphase, hecho, hhdr, hlen, hbody, hacc, herr, hbyte, hdiag, hrxq, hline, hevents⟩ := h
  refine ⟨htxbuf, hphase, hecho, hhdr, hlen, hbody, hacc, herr, hbyte, ?_, hrxq, hline, hevents⟩
  rw [note_diag, hdiag, List.append_nil]

/-- Settles O40: the transaction is the failed one of READ, WRITE or PING, and what the facade adds is its note. -/
theorem facadeReportsFailure : Obligations.FacadeReportsFailure := by
  intro place s f e hf hb ho
  refine ⟨?_, ?_, fun p hp hv => ?_⟩
  · intro sel reg hsel hacc parameters p hv
    obtain ⟨houtside, hafter⟩ := finalState_spec hv
    obtain ⟨haddress, hsize⟩ := hsel.toNat
    rw [exec, execGet, getOp_of_selects (s := latchOp .get s) hsel hacc, readOp_eq (s := latchOp .get s) ho rfl hv]
    exact ⟨_, rfl, rfl, rfl, hafter.note .getFailed, houtside, ⟨rfl, rfl, rfl, rfl⟩, haddress, hsize, rfl⟩
  · intro sel reg value bytes hsel hacc henc hfit hsmall data p hv
    obtain ⟨⟨hconfig, hraw, hcomb, -, -, hhwerr, hnotifying⟩, hafter⟩ := finalState_spec hv
    obtain ⟨haddress, -⟩ := hsel.toNat
    obtain ⟨val, hencode⟩ := encodeOp_writes henc
    have hdata : data.length ≤ 65530 := by
      rw [List.length_append, List.length_replicate]
      omega
    let t := withEncoding reg.display (val s.val) (latchOp .set s)
    have hset : setOp place sel value (latchOp .set s) =
        writeOp f.fid (BitVec.ofNat 16 reg.address) data t >>= fun r => .ok (setAnswer place f r) :=
      setOp_of_selects (s := latchOp .set s) hsel hacc (hencode _ rfl) hfit
    have hwrite := writeOp_eq (s := t) ho hdata rfl hv
    have hencoded : exec (.encode value reg.display) s = .next (deliver (.bytes bytes)
        (withEncoding reg.display (val s.val) (latchOp .encode s))) := by
      rw [exec, execEncode, hencode (latchOp .encode s) rfl]
      rfl
    have hrun : exec (.set place sel value) s = execSet place sel value s := rfl
    rw [hrun, execSet, hset, hwrite]
    exact ⟨_, rfl, rfl, rfl, hafter.note .setFailed, hconfig, hhwerr, hnotifying, hraw, hcomb, ⟨rfl, rfl, rfl, rfl⟩,
      haddress, rfl, rfl, _, hencoded, rfl, rfl⟩
  · obtain ⟨houtside, hafter⟩ := finalState_spec hv
    rw [exec, execDevPing, facadeAt_ok hf hb, ok_bind, pingOp_eq (s := latchOp .devPing s) ho hp hv]
    exact ⟨_, rfl, rfl, rfl, hafter, houtside, ⟨rfl, rfl, rfl, rfl⟩, rfl, rfl, rfl⟩

end Sys2Proof.Claims

/-! PROOF. DECODE's bounds and its refusal, alone and behind GET's transaction (43_register_data_model R165, R177, R178;
44_device_facade R200). -/

namespace Sys2Proof.Claims

open Sys2Proof.Machine

/-! ### DECODE under other bounds -/

/-- An outcome that looks like a completed one has completed, with the same result. -/
theorem completes_of_visible_eq_next {o : Host.Outcome State Fault Refusal} {t : State}
    (h : visible o = visible (.next t)) : Completes o fun u => u.result = t.result := by
  cases o with
  | next u =>
    injection h with hstate
    have hresult := congrArg State.result hstate
    exact ⟨u, rfl, hresult⟩
  | fault f => cases h
  | refused r => cases h

/-- A refusal shows as it is. -/
theorem visible_eq_refused {o : Host.Outcome State Fault Refusal} {r : Refusal} (h : visible o = .refused r) :
    o = .refused r := by
  cases o with
  | next u => cases h
  | fault f => cases h
  | refused r' => exact h

/-- No stage of DECODE reads the bounds; they reach only the register SPEC. -/
theorem decodeOp_bounds_alike (raw : List Byte) (d : DisplaySpec) (lo hi : Option Rat) (s : State) :
    Alike (decodeOp raw (some { d with min := lo, max := hi }) s) (decodeOp raw (some d) s) := by
  obtain hpass | ⟨_, ⟨⟩, hnum⟩ := passesThrough_or_numeric (some d)
  · have hother : PassesThrough (some { d with min := lo, max := hi }) := by
      rintro _ ⟨⟩
      exact hpass d rfl
    rw [decodeOp_of_passesThrough hother, decodeOp_of_passesThrough hpass]
    exact .answer rfl
  · rw [decodeOp_of_numeric (d := { d with min := lo, max := hi }) hnum, decodeOp_of_numeric hnum]
    exact .behind (ds4Cast d.tag raw (engineering s.num d raw)) fun _ => .answer rfl

/-- Settles O31: both runs answer alike, so the visible outcome is one. -/
theorem decodeDoesNotClamp : Obligations.DecodeDoesNotClamp := by
  intro raw d lo hi s
  have hvisible : visible (exec (.decode raw (some { d with min := lo, max := hi })) s) =
      visible (exec (.decode raw (some d)) s) :=
    (decodeOp_bounds_alike raw d lo hi (latchOp .decode s)).visible_eq .value
  refine ⟨fun t ht => ?_, fun r hr => ?_⟩
  · exact completes_of_visible_eq_next (hvisible.trans (congrArg visible ht))
  · exact visible_eq_refused (hvisible.trans (congrArg visible hr))

/-! ### GET where DECODE is refused -/

/-- The claims' DECODE has no value only for `hex` of what is negative or not whole (R177). -/
theorem hex_of_decodedValue_none {num : NumDomain} {spec : Option DisplaySpec} {raw : List Byte}
    (h : decodedValue num spec raw = none) : ∃ d, spec = some d ∧ d.tag = .hex ∧
      (engineering num d raw < 0 ∨ (⌊engineering num d raw⌋ : Rat) ≠ engineering num d raw) := by
  cases spec with
  | none => cases h
  | some d =>
    refine ⟨d, rfl, ?_⟩
    cases htag : d.tag with
    | hex =>
      simp only [decodedValue, htag, ite_eq_right_iff, reduceCtorEq, imp_false, not_and_or, not_le] at h
      exact ⟨rfl, h⟩
    | int | float | bool | bytes | unknown => simp [decodedValue, htag] at h

/-- DECODE is refused where the claims give it no value. -/
theorem decodeOp_refused {spec : Option DisplaySpec} {raw : List Byte} {s : State}
    (h : decodedValue s.num spec raw = none) : decodeOp raw spec s = refuse .hexOfNonNatural := by
  obtain ⟨d, rfl, htag, hv⟩ := hex_of_decodedValue_none h
  rw [decodeOp_of_numeric (by rw [htag]; rfl), htag, ds4Cast_hex_refused hv, refuse_bind]

/-- On an answered line GET is DECODE of the reply's data, after the hooks have been told of its error byte. -/
theorem getOp_answered {place : Nat} {sel : RegSel} {s : State} {f : Facade} {reg : RegDescriptor} {errByte : Byte}
    {data tail late : List Byte} (hsel : Selects place sel s f reg) (hacc : reg.access.canRead = true)
    (ho : s.bus.isOpen = true) (he : errByte &&& 0x7F = 0) (hd : data.length ≤ 65531)
    (hline : LineAnswers (statusReply f.fid errByte data) tail late s.line) :
    ∃ t, OutsideKept s t ∧ getOp place sel s =
      decodeOp data reg.display (fireHooks place f (errByte :: data) t) >>= fun r => .ok (some r.1, r.2) := by
  obtain ⟨hv, hanswer, -, houtside⟩ := finalState_answered (buildPacketBytes_take_five f.fid Config.codeRead
    (readParams (BitVec.ofNat 16 reg.address) (BitVec.ofNat 16 reg.size))) hd he hline
  rw [getOp_of_selects hsel hacc, readOp_eq ho rfl hv, hanswer]
  refine ⟨_, ?_, rfl⟩
  exact houtside

/-- Settles O43: GET is the refused DECODE, for neither the transaction nor the hooks change NUM. -/
theorem getIsRefusedWithDecode : Obligations.GetIsRefusedWithDecode := by
  intro place sel s f reg errByte data tail late hsel hacc ho he hd hline hnone
  obtain ⟨t, ⟨⟨-, -, -, -, htnum, -⟩, -⟩, hget⟩ := getOp_answered (s := latchOp .get s) hsel hacc ho he hd hline
  obtain ⟨-, -, -, -, hhooks, -⟩ := (fireHooks_sound place f (errByte :: data) t).config
  have hnum : (fireHooks place f (errByte :: data) t).num = s.num := hhooks.trans htnum
  rw [exec, execGet, hget, decodeOp_refused (by rw [hnum]; exact hnone)]
  rfl

end Sys2Proof.Claims

/-! PROOF. GET, SET and DEV_PING on a line that answers, and which operations raise HWERR (44_device_facade R199 to R207). -/

namespace Sys2Proof.Claims

open Sys2Proof.Machine

/-! ### The hooks behind a successful transaction -/

/-- What the fan-out writes behind a success with this error byte: HWERR and the notification flag (R206, R207). -/
def withHooksFired (place : Nat) (f : Facade) (e : Byte) (s : State) : State :=
  { s with
    hwerr := s.hwerr ++ firedHooks place f e
    notifying := if e = 0x80 then false else s.notifying }

theorem fireHooks_answered {e : Byte} (he : e &&& 0x7F = 0) (place : Nat) (f : Facade) (data : List Byte) (s : State) :
    fireHooks place f (e :: data) s = withHooksFired place f e s := by
  rw [fireHooks_eq he, withHooksFired, firedHooks]
  split
  · rw [notifyAll_eq]
    rfl
  · rw [List.append_nil]

/-! ### What DECODE and ENCODE write -/

/-- What DECODE writes: RAW, SPEC, COMB and VAL. -/
def withDecoding (raw : List Byte) (spec : Option DisplaySpec) (comb : Nat) (val : Rat) (s : State) : State :=
  { s with raw := raw, spec := spec, comb := comb, val := val }

theorem decodeOp_frame (raw : List Byte) (spec : Option DisplaySpec) (s : State) :
    Meets (decodeOp raw spec s) fun r => ∃ comb val, r.2 = withDecoding raw spec comb val s := by
  obtain h | ⟨d, rfl, h⟩ := passesThrough_or_numeric spec
  · rw [decodeOp_of_passesThrough h]
    exact ⟨s.comb, s.val, rfl⟩
  · rw [decodeOp_of_numeric h]
    exact (ds4Cast_meets _ _ _).bind fun _ _ => ⟨_, _, rfl⟩

theorem encodeOp_frame (v : Value) (spec : Option DisplaySpec) (s : State) :
    Meets (encodeOp v spec s) fun r => ∃ val, r.2 = withEncoding spec val s := by
  obtain h | ⟨d, rfl, h⟩ := passesThrough_or_numeric spec
  · rw [encodeOp_of_passesThrough h]
    exact (passBytes_meets v).bind fun _ _ => ⟨s.val, rfl⟩
  · rw [encodeOp_of_numeric h]
    exact (es0Check_meets d).bind fun _ _ => (es1Parse_meets _ v).bind fun _ _ => (es6Emit_meets _).bind fun _ _ =>
      ⟨_, rfl⟩

/-! ### DECODE of a value that exists -/

/-- A natural number as the claims test for one is natural as the cast of DS4 tests for one (R177). -/
theorem ds4Cast_hex_of_natural {v : Rat} (raw : List Byte) (h : 0 ≤ v ∧ (⌊v⌋ : Rat) = v) :
    ds4Cast .hex raw v = .ok (.text (Nat.toDigits 16 ⌊v⌋.toNat)) := by
  obtain ⟨hnonneg, hwhole⟩ := h
  have hnat : ((⌊v⌋.toNat : ℕ) : Rat) = v := by
    rw [← Int.cast_natCast, Int.toNat_of_nonneg (Int.floor_nonneg.2 hnonneg), hwhole]
  have hcast := ds4Cast_hex_natCast raw ⌊v⌋.toNat
  rwa [hnat, hexText_eq] at hcast

/-- DS4 casts to the value the claims give a numeric tag. -/
theorem ds4Cast_of_decodedValue {num : NumDomain} {d : DisplaySpec} {raw : List Byte} {v : Value}
    (hnum : d.tag.numeric = true) (h : decodedValue num (some d) raw = some v) :
    ds4Cast d.tag raw (engineering num d raw) = .ok v := by
  cases htag : d.tag with
  | bytes | unknown => rw [htag] at hnum; cases hnum
  | int =>
    simp only [decodedValue, htag, Option.some.injEq] at h
    rw [← h, ← trunc_eq]
    rfl
  | float =>
    simp only [decodedValue, htag, Option.some.injEq] at h
    rw [← h]
    rfl
  | bool =>
    simp only [decodedValue, htag, Option.some.injEq] at h
    rw [← h, ds4Cast_bool]
  | hex =>
    simp only [decodedValue, htag, Option.ite_none_right_eq_some, Option.some.injEq] at h
    obtain ⟨hnatural, rfl⟩ := h
    exact ds4Cast_hex_of_natural raw hnatural

/-- Bytes that pass through are the claims' value too. -/
theorem decodedValue_of_passesThrough {spec : Option DisplaySpec} (h : PassesThrough spec) (num : NumDomain)
    (raw : List Byte) : decodedValue num spec raw = some (.bytes raw) := by
  cases spec with
  | none => rfl
  | some d =>
    have hnum := h d rfl
    cases htag : d.tag with
    | bytes | unknown => simp only [decodedValue, htag]
    | int | float | bool | hex => rw [htag] at hnum; cases hnum

/-- DECODE's COMB and VAL depend on its operands, NUM and the COMB and VAL before alone. -/
theorem decodeOp_writes {num : NumDomain} {spec : Option DisplaySpec} {raw : List Byte} {v : Value}
    (h : decodedValue num spec raw = some v) : ∃ (comb : Nat → Nat) (val : Rat → Rat), ∀ s : State, s.num = num →
      decodeOp raw spec s = .ok (v, withDecoding raw spec (comb s.comb) (val s.val) s) := by
  obtain hpass | ⟨d, rfl, hnum⟩ := passesThrough_or_numeric spec
  · rw [decodedValue_of_passesThrough hpass, Option.some.injEq] at h
    exact ⟨id, id, fun s _ => h ▸ decodeOp_of_passesThrough hpass raw s⟩
  · refine ⟨fun _ => fromLe raw, fun _ => engineering num d raw, fun s hs => ?_⟩
    subst hs
    rw [decodeOp_of_numeric hnum, ds4Cast_of_decodedValue hnum h]
    rfl

/-! ### The answered line -/

/-- Settles O37: GET is READ's successful transaction, then the hooks, then DECODE of the reply's data. -/
theorem getReadsAndDecodes : Obligations.GetReadsAndDecodes := by
  intro place sel s f reg errByte data tail late v hsel hacc ho he hd hline hvalue
  obtain ⟨hv, hanswer, hsucceeded, hconfig, -⟩ := finalState_answered (s := latchOp .get s)
    (buildPacketBytes_take_five f.fid Config.codeRead
      (readParams (BitVec.ofNat 16 reg.address) (BitVec.ofNat 16 reg.size))) hd he hline
  obtain ⟨haddress, hsize⟩ := hsel.toNat
  obtain ⟨comb, val, hdecode⟩ := decodeOp_writes hvalue
  have hdecoded : exec (.decode data reg.display) s = .next (deliver (.value v)
      (withDecoding data reg.display (comb s.comb) (val s.val) (latchOp .decode s))) := by
    rw [exec, execDecode, hdecode (latchOp .decode s) rfl]
    rfl
  have hrun : exec (.get place sel) s = execGet place sel s := rfl
  rw [hrun, execGet, getOp_of_selects (s := latchOp .get s) hsel hacc, readOp_eq (s := latchOp .get s) ho rfl hv, hanswer,
    ok_bind, TxResult.payload?, getAnswer, fireHooks_answered he, List.drop_one, List.tail_cons, hdecode]
  · exact ⟨_, rfl, rfl, hsucceeded, rfl, rfl, hconfig, ⟨rfl, rfl, rfl, rfl⟩, haddress, hsize, rfl, _, hdecoded,
      rfl, rfl, rfl, rfl⟩
  · rfl

/-- Settles O38: SET is ENCODE, then WRITE's successful transaction of the padded bytes, then the hooks. -/
theorem setEncodesPadsAndWrites : Obligations.SetEncodesPadsAndWrites := by
  intro place sel s f reg value bytes errByte data tail late hsel hacc ho henc hfit hsmall he hd hline
  rw [List.append_assoc]
  obtain ⟨val, hencode⟩ := encodeOp_writes henc
  let t := withEncoding reg.display (val s.val) (latchOp .set s)
  obtain ⟨hv, hanswer, hsucceeded, hconfig, -⟩ := finalState_answered (s := t)
    (buildPacketBytes_take_five f.fid Config.codeWrite (writeParams (BitVec.ofNat 16 reg.address)
      (bytes ++ List.replicate (reg.size - bytes.length) 0))) hd he hline
  obtain ⟨haddress, -⟩ := hsel.toNat
  have hpadded : (bytes ++ List.replicate (reg.size - bytes.length) 0).length ≤ 65530 := by
    rw [List.length_append, List.length_replicate]
    omega
  have hencoded : exec (.encode value reg.display) s = .next (deliver (.bytes bytes)
      (withEncoding reg.display (val s.val) (latchOp .encode s))) := by
    rw [exec, execEncode, hencode (latchOp .encode s) rfl]
    rfl
  have hset := setOp_of_selects (s := latchOp .set s) (t := t) hsel hacc (hencode _ rfl) hfit
  have hrun : exec (.set place sel value) s = execSet place sel value s := rfl
  rw [hrun, execSet, hset, writeOp_eq (s := t) ho hpadded rfl hv, hanswer, ok_bind, TxResult.payload?, setAnswer,
    fireHooks_answered he]
  exact ⟨_, rfl, rfl, hsucceeded, rfl, rfl, hconfig, ⟨rfl, rfl, rfl, rfl⟩, haddress, rfl, rfl, rfl, rfl, _, hencoded,
    rfl, rfl⟩

/-- A reply has a model number exactly when two data bytes stand behind its error byte (R149). -/
theorem model_isSome (e : Byte) (data : List Byte) :
    (TxResult.ok (e :: data)).model?.isSome = decide (2 ≤ data.length) := by
  match data with
  | [] | [_] => rfl
  | _ :: _ :: _ => simp [TxResult.model?]

/-- Settles O39: DEV_PING is PING's successful transaction; of the model number it hands on that it is there. -/
theorem devPingTellsPresence : Obligations.DevPingTellsPresence := by
  intro place s f errByte data tail late hf hb ho he hd hline
  obtain ⟨hv, hanswer, hsucceeded, houtside⟩ :=
    finalState_answered (s := latchOp .devPing s) (buildPacketBytes_take_five f.fid Config.codePing []) hd he hline
  rw [exec, execDevPing, facadeAt_ok hf hb, ok_bind, pingOp_eq (s := latchOp .devPing s) ho rfl hv, hanswer]
  exact ⟨_, rfl, congrArg OpResult.flag (model_isSome errByte data), hsucceeded, houtside, ⟨rfl, rfl, rfl, rfl⟩,
    rfl, rfl, rfl⟩

/-! ### Who raises HWERR -/

/-- Where the payload's first byte is not zero, it is the byte that step 9 takes as the error byte (R139, R140). -/
theorem Exchange.payload_head {x : Exchange} (h : x.payload.getD 0 0 ≠ 0) : x.payload.getD 0 0 = x.resp.getD 8 0 := by
  simp only [Exchange.payload, List.getD_eq_getElem?_getD, List.getElem?_drop, List.getElem?_take] at h ⊢
  split at h
  · next hlt => rw [if_pos hlt]
  · exact absurd rfl h

/-- Without error bits, the one error byte that is not zero is 0x80. -/
theorem eq_0x80_of_hardwareErrorSet : ∀ e : Byte, errorBitsSet e = false → hardwareErrorSet e = true → e = 0x80 := by
  decide +kernel

/-- HWERR is still `before`, and a payload on which the hooks would fire comes with ERR = OK and ERRBYTE = 0x80 (R206). -/
structure HooksDue (before : List HwErr) (r : Option (List Byte) × State) : Prop where
  kept : r.2.hwerr = before
  due  : ∀ p, r.1 = some p → hardwareErrorSet (p.getD 0 0) = true → r.2.err = .ok ∧ r.2.errByte = 0x80

theorem finalState_hooksDue {p : List Byte} {x : Exchange} {v : Option TxError} (hv : verdict p x = v) (s : State) :
    HooksDue s.hwerr ((answerOf x v).payload?, finalState p x s v) := by
  refine ⟨rfl, fun q hq hset => ?_⟩
  cases v with
  | some e => cases hq
  | none =>
    cases hq
    have hhead := Exchange.payload_head (by simpa [hardwareErrorSet] using hset)
    rw [hhead] at hset
    exact ⟨rfl, eq_0x80_of_hardwareErrorSet _ (errByte_of_verdict_none hv) hset⟩

theorem transactOp_hooksDue (a i : Byte) (p : List Byte) (s : State) :
    Meets (transactOp a i p s) fun r => HooksDue s.hwerr (r.1.payload?, r.2) := by
  rw [transactOp_eq]
  split_ifs
  · exact nofun
  · rw [runTransaction_eq a i p _ _ _ rfl rfl]
    exact finalState_hooksDue rfl (latchRequest a i p s)
  · exact nofun

theorem transactOp_hwerr (a i : Byte) (p : List Byte) (s : State) :
    Meets (transactOp a i p s) fun r => r.2.hwerr = s.hwerr :=
  (transactOp_hooksDue a i p s).mono fun _ h => h.kept

theorem pingOp_hwerr (a : Byte) (s : State) : Meets (pingOp a s) fun r => r.2.hwerr = s.hwerr :=
  (transactOp_hwerr a _ _ s).bind fun _ h => h

theorem readOp_hooksDue (a : Byte) (reg num : Word) (s : State) : Meets (readOp a reg num s) (HooksDue s.hwerr) :=
  (transactOp_hooksDue a _ _ { s with regAddr := reg, rlen := num }).bind fun _ h => h

theorem writeOp_hooksDue (a : Byte) (reg : Word) (d : List Byte) (s : State) :
    Meets (writeOp a reg d s) (HooksDue s.hwerr) :=
  (transactOp_hooksDue a _ _ { s with regAddr := reg, data := d }).bind fun _ h => h

theorem readOp_hwerr (a : Byte) (reg num : Word) (s : State) :
    Meets (readOp a reg num s) fun r => r.2.hwerr = s.hwerr :=
  (readOp_hooksDue a reg num s).mono fun _ h => h.kept

theorem writeOp_hwerr (a : Byte) (reg : Word) (d : List Byte) (s : State) :
    Meets (writeOp a reg d s) fun r => r.2.hwerr = s.hwerr :=
  (writeOp_hooksDue a reg d s).mono fun _ h => h.kept

/-- HWERR is still `before`, or a transaction has ended with ERR = OK and ERRBYTE = 0x80. -/
def RaisedRightly (before : List HwErr) (t : State) : Prop := t.hwerr = before ∨ t.err = .ok ∧ t.errByte = 0x80

theorem fireHooks_raisedRightly {before : List HwErr} {p : List Byte} {s : State}
    (h : HooksDue before (some p, s)) (place : Nat) (f : Facade) : RaisedRightly before (fireHooks place f p s) := by
  obtain ⟨hkept, hdue⟩ := h
  unfold fireHooks
  split
  · next hset =>
    rw [notifyAll_eq]
    exact .inr (hdue p rfl hset)
  · exact .inl hkept

theorem getAnswer_raisedRightly (place : Nat) (f : Facade) (reg : RegDescriptor) {before : List HwErr}
    {r : Option (List Byte) × State} (h : HooksDue before r) :
    Meets (getAnswer place f reg r) fun a => RaisedRightly before a.2 := by
  obtain ⟨_ | p, t⟩ := r
  · exact .inl h.kept
  · refine (decodeOp_frame _ _ _).bind fun ⟨v, u⟩ hu => ?_
    obtain ⟨comb, val, rfl⟩ := hu
    exact fireHooks_raisedRightly h place f

theorem setAnswer_raisedRightly (place : Nat) (f : Facade) {before : List HwErr}
    {r : Option (List Byte) × State} (h : HooksDue before r) : RaisedRightly before (setAnswer place f r).2 := by
  obtain ⟨_ | p, t⟩ := r
  · exact .inl h.kept
  · exact fireHooks_raisedRightly h place f

theorem getOp_raisedRightly (place : Nat) (sel : RegSel) (s : State) :
    Meets (getOp place sel s) fun r => RaisedRightly s.hwerr r.2 := by
  rw [getOp_eq]
  refine (facadeAt_meets place s).bind fun f _ => (selectOn_meets f sel s).bind fun c _ => ?_
  split
  · exact (checkMap_meets _).bind fun _ _ => (readOp_hooksDue _ _ _ s).bind fun _ hr =>
      getAnswer_raisedRightly place f c.2 hr
  · exact nofun

theorem setOp_raisedRightly (place : Nat) (sel : RegSel) (v : Value) (s : State) :
    Meets (setOp place sel v s) fun r => RaisedRightly s.hwerr r.2 := by
  rw [setOp_eq]
  refine (facadeAt_meets place s).bind fun f _ => (selectOn_meets f sel s).bind fun c _ => ?_
  split
  · refine (encodeOp_frame v _ s).bind fun ⟨b, t⟩ ht => (checkMap_meets _).bind fun _ _ =>
      (pad_meets _ _).bind fun d _ => ?_
    obtain ⟨val, rfl⟩ := ht
    exact (writeOp_hooksDue _ _ d _).bind fun _ hr => setAnswer_raisedRightly place f hr
  · exact nofun

/-- An instruction whose operation leaves HWERR alone leaves it alone: it latches OP before and delivers the answer after. -/
theorem Meets.deliveredHwErr {α : Type} {op : HostOp} {s : State} {x : Attempt (α × State)} {Q : State → Prop}
    (h : Meets x fun r => r.2.hwerr = (latchOp op s).hwerr) (g : α → OpResult) :
    Ends (Attempt.outcome (x >>= fun r => .ok (deliver (g r.1) r.2))) fun t => t.hwerr = s.hwerr ∨ Q t :=
  Meets.outcome (h.bind fun _ hr => .inl hr)

/-- Every instruction but GET and SET leaves HWERR alone, and those two change it rightly. -/
theorem exec_hwerr (i : Instr) (s : State) : Ends (exec i s) fun t => t.hwerr = s.hwerr ∨
    ((∃ f r, i = .get f r) ∨ ∃ f r v, i = .set f r v) ∧ t.err = .ok ∧ t.errByte = 0x80 := by
  cases i with
  | pktPing id crc => exact (pingOp_hwerr id _).deliveredHwErr .model
  | pktRead id reg num crc => exact (readOp_hwerr id reg num _).deliveredHwErr .payload
  | pktWrite id len reg d crc => exact (writeOp_hwerr id reg d _).deliveredHwErr .payload
  | pktStatus id len e d crc => exact .inl rfl
  | crc16 b seed => exact .inl rfl
  | buildPacket a c p => exact Meets.outcome ((checkParams_meets p).bind fun _ _ => .inl rfl)
  | transact a c p => exact (transactOp_hwerr a c p _).deliveredHwErr .transacted
  | ping a => exact (pingOp_hwerr a _).deliveredHwErr .model
  | read a reg num => exact (readOp_hwerr a reg num _).deliveredHwErr .payload
  | write a reg d => exact (writeOp_hwerr a reg d _).deliveredHwErr .payload
  | sendBlind a c p => exact Meets.outcome ((checkParams_meets p).bind fun _ _ => (checkOpen_meets s).bind fun _ _ =>
      .inl rfl)
  | decode raw spec => exact ((decodeOp_frame raw spec (latchOp .decode s)).mono fun _ ⟨_, _, h⟩ => by
      rw [h]; rfl).deliveredHwErr (op := .decode) .value
  | encode v spec => exact ((encodeOp_frame v spec (latchOp .encode s)).mono fun _ ⟨_, h⟩ => by
      rw [h]; rfl).deliveredHwErr (op := .encode) .bytes
  | get place sel => exact Meets.outcome ((getOp_raisedRightly place sel (latchOp .get s)).bind fun _ hr =>
      hr.imp_right fun h => ⟨.inl ⟨place, sel, rfl⟩, h⟩)
  | set place sel v => exact Meets.outcome ((setOp_raisedRightly place sel v (latchOp .set s)).bind fun _ hr =>
      hr.imp_right fun h => ⟨.inr ⟨place, sel, v, rfl⟩, h⟩)
  | devPing place => exact Meets.outcome ((facadeAt_meets place s).bind fun f _ =>
      (pingOp_hwerr f.fid (latchOp .devPing s)).bind fun _ hr => .inl hr)

/-- Settles O45: the record changes only behind the hooks, which fire on the error byte of a success. -/
theorem onlyGetAndSetRaiseHwErr : Obligations.OnlyGetAndSetRaiseHwErr := by
  intro i s t h hne
  exact ((exec_hwerr i s).next h).resolve_left hne

end Sys2Proof.Claims

/-! PROOF. The seven errors in step order (60_exceptions R216, R224): TRANSACT answers and leaves what the verdict on its
exchange says. -/

namespace Sys2Proof.Claims

open Sys2Proof.Machine

/-- Settles O14: the engine's checks are those of `verdict` in the same order, and its final state is the one the verdict
describes, for success and for each error. -/
theorem transactReportsFirstFailure : Obligations.TransactReportsFirstFailure := by
  intro address code parameters s ho hfit
  obtain ⟨houtside, hafter⟩ := finalState_spec (p := buildPacketBytes address code parameters) (s := s) rfl
  rw [exec, execTransact, transactOp_finalState (s := latchOp .transact s) ho hfit rfl rfl]
  exact ⟨_, rfl, hafter, houtside, ⟨rfl, rfl, rfl, rfl⟩, rfl, rfl, rfl, rfl⟩

end Sys2Proof.Claims
